-- ==== Sys2Proof/Word.lean ====
section
/-! DEFINITION. The word types of the machine (00_scope.md R6 to R10) and the plainest operations on them. -/

namespace Sys2Proof

/-- A data byte: WREG, a file register, a byte of program memory (P_DW = 8, 00_scope.md R7). -/
abbrev Byte := BitVec 8

/-- An instruction word (P_IW = 16, 00_scope.md R6). -/
abbrev Word := BitVec 16

/-- A data-memory address (P_DA = 12, 00_scope.md R7). -/
abbrev DataAddr := BitVec 12

/-- A program-memory byte address (P_PCW = 21, 00_scope.md R7; 10_state.md R40). -/
abbrev ProgAddr := BitVec 21

/-- One bit as a one-bit vector, for use in concatenations. -/
def bit (b : Bool) : BitVec 1 := BitVec.ofBool b

end Sys2Proof
end

