-- ==== Sys2Proof/Config.lean ====
section
/-! DEFINITION. The implementation parameters of 00_scope.md R7 (and the options the decisions of 92_eei_decisions.md
leave to a model), as plain data, and the free values.

Every parameter of R7 is a field of `Config`, but for the oracle P_IRQ, which is data of the state, as are the answers
of the oracle P_PERIPH. -/

namespace Sys2Proof

/-- The addresses from `lo` to `hi`, both included. -/
structure AddrRange where
  lo : Nat
  hi : Nat
  deriving DecidableEq, Repr

/-- Which of the three file select registers (10_state.md R38). -/
inductive FsrIdx where
  | f0
  | f1
  | f2
  deriving DecidableEq, Repr

/-- The core special function registers that hold something (10_state.md R60). -/
inductive Sfr where
  | tosu
  | tosh
  | tosl
  | stkptr
  | pclatu
  | pclath
  | pcl
  | tblptru
  | tblptrh
  | tblptrl
  | tablat
  | prodh
  | prodl
  | intcon
  | fsrh (i : FsrIdx)
  | fsrl (i : FsrIdx)
  | wreg
  | bsr
  | status
  | rcon
  deriving DecidableEq, Repr

/-- The five indirect forms of one file select register (20_memory.md R102). -/
inductive Indirect where
  | indf
  | postinc
  | postdec
  | preinc
  | plusw
  deriving DecidableEq, Repr

/-- A virtual register: an indirect form of one FSR (20_memory.md R102). -/
structure Virt where
  form : Indirect
  idx : FsrIdx
  deriving DecidableEq, Repr

/-- What a row of the special function register map names (10_state.md R60). -/
inductive SfrName where
  | core (r : Sfr)
  /-- The rows marked virtual. -/
  | virt (q : Virt)
  deriving DecidableEq, Repr

/-- One row of the special function register map (10_state.md R60). -/
structure SfrRow where
  addr : DataAddr
  name : SfrName
  deriving DecidableEq, Repr

/-- P_UNASSIGNED: what an unassigned encoding does when it is executed (30_encoding.md R160, D4). -/
inductive UnassignedPolicy where
  /-- `raise UnassignedOpcode`, the spec's default. -/
  | refuse
  /-- It executes as NOP. -/
  | nop
  deriving DecidableEq, Repr

/-- P_FLAGS_VARIANT: the status sets of IORWF, NEGF and RLCF (D14, 90_conflicts.md C14 to C16). -/
inductive FlagsVariant where
  | corrected
  | sourceLiteral
  deriving DecidableEq, Repr

/-- P_DAW_VARIANT: which high-digit test DAW uses (42_control.md R282, D13). -/
inductive DawVariant where
  | propagate
  | isolated
  deriving DecidableEq, Repr

/-- P_PERIPH: data addresses that are neither implemented RAM nor a core register (20_memory.md R106, D15). -/
inductive PeriphPolicy where
  /-- `raise DataAddressNotModelled`, the spec's default. -/
  | refuse
  /-- The oracle the state holds as data: a read gives the level in `periphIn`, a write goes to the latch in
  `periphOut` (70_reset_and_hazards.md R400). -/
  | ports
  deriving DecidableEq, Repr

/-- PCL as an operand (D21, U22). -/
inductive PclPolicy where
  /-- The semantics of 10_state.md R42. -/
  | asR42
  /-- The cautious model: every data access that resolves to PCL is refused. -/
  | refuse
  deriving DecidableEq, Repr

/-- What happens in the cases for which 60_exceptions.md R351 names a model outcome AND says what the hardware would
do: the stack limits (D8), a fetch or table read outside program memory (D17), a second word without its `1111` (D5). -/
inductive EdgePolicy where
  /-- The spec's decision: the model stops with the outcome R351 names. -/
  | stop
  /-- R351's column "what the hardware would do". -/
  | hardware
  deriving DecidableEq, Repr

/-- A size of the machine that can only be `n`, the value of R7: the encodings (R6) and the registers' layouts leave a
configuration no other, and the model's types are of that size (`Config.widths` in Sys2Proof/Laws/Config.lean). Log 19. -/
abbrev Size (n : Nat) := { v : Nat // v = n }

/-- The configuration of one device. No step changes it. -/
structure Config where
  /-- P_IW: the width of an instruction word, `Word`. -/
  iw : Size 16
  /-- P_DW: the width of WREG and of a file register, `Byte`. -/
  dw : Size 8
  /-- P_DA: the width of a data address, `DataAddr`. -/
  da : Size 12
  /-- P_BANKS: the number of banks, that BSR can name. -/
  banks : Size 16
  /-- P_PCW: the width of the program counter, `ProgAddr`. -/
  pcw : Size 21
  /-- P_TBLPTR_W: the width of the table pointer. -/
  tblptrW : Size 22
  /-- P_PM_IMPL: the implemented program-memory byte addresses. -/
  pmImpl : List AddrRange
  /-- P_GPR_IMPL: the implemented general-purpose data addresses. -/
  gprImpl : List AddrRange
  /-- P_ACCESS_SPLIT: the first `f` that the Access Bank maps to the top of data memory. -/
  accessSplit : Byte
  /-- P_SFR_MAP: the addresses of the core special function registers and of the virtual registers (10_state.md R60). -/
  sfrMap : List SfrRow
  /-- P_STACK_DEPTH: the usable levels of the return stack, at most the 31 that a 5-bit SP can name (10_state.md R44). -/
  stackDepth : Fin 32
  /-- P_STVREN: a stack full or underflow condition resets the device. -/
  stvren : Bool
  unassigned : UnassignedPolicy
  flagsVariant : FlagsVariant
  dawVariant : DawVariant
  periph : PeriphPolicy
  pclAccess : PclPolicy
  edges : EdgePolicy
  deriving DecidableEq, Repr

/-- The n-th free value: a byte the spec leaves unspecified (R70's `x` after a reset, U18, the overwrite or discard of
10_state.md R46). It has no body, so nothing can be proved about its value. Log 6. -/
opaque Config.freeByte : Nat → Byte

end Sys2Proof
end

