-- ==== Sys2Proof/Syntax.lean ====
section
/-! DEFINITION. The instructions: one constructor per row of spec/opcode_table.json (30_encoding.md R131 to R144, R155). -/

namespace Sys2Proof

/-- The `d` bit: where a byte-oriented result goes (30_encoding.md R155). -/
inductive Dest where
  /-- `d = 0`: WREG. -/
  | w
  /-- `d = 1`: the file register. -/
  | f
  deriving DecidableEq, Repr

/-- The `a` bit: how the data address is formed (20_memory.md R100). -/
inductive RamSel where
  /-- `a = 0`: the Access Bank. -/
  | access
  /-- `a = 1`: the bank BSR selects. -/
  | banked
  deriving DecidableEq, Repr

/-- The 76 instruction forms of the opcode table, in the table's order. -/
inductive Instr where
  -- byte-oriented file register operations (40_byte_oriented.md)
  | addwf (f : Byte) (d : Dest) (a : RamSel)
  | addwfc (f : Byte) (d : Dest) (a : RamSel)
  | andwf (f : Byte) (d : Dest) (a : RamSel)
  | clrf (f : Byte) (a : RamSel)
  | comf (f : Byte) (d : Dest) (a : RamSel)
  | cpfseq (f : Byte) (a : RamSel)
  | cpfsgt (f : Byte) (a : RamSel)
  | cpfslt (f : Byte) (a : RamSel)
  | decf (f : Byte) (d : Dest) (a : RamSel)
  | decfsz (f : Byte) (d : Dest) (a : RamSel)
  | dcfsnz (f : Byte) (d : Dest) (a : RamSel)
  | incf (f : Byte) (d : Dest) (a : RamSel)
  | incfsz (f : Byte) (d : Dest) (a : RamSel)
  | infsnz (f : Byte) (d : Dest) (a : RamSel)
  | iorwf (f : Byte) (d : Dest) (a : RamSel)
  | movf (f : Byte) (d : Dest) (a : RamSel)
  | movff (fs fd : DataAddr)
  | movwf (f : Byte) (a : RamSel)
  | mulwf (f : Byte) (a : RamSel)
  | negf (f : Byte) (a : RamSel)
  | rlcf (f : Byte) (d : Dest) (a : RamSel)
  | rlncf (f : Byte) (d : Dest) (a : RamSel)
  | rrcf (f : Byte) (d : Dest) (a : RamSel)
  | rrncf (f : Byte) (d : Dest) (a : RamSel)
  | setf (f : Byte) (a : RamSel)
  | subfwb (f : Byte) (d : Dest) (a : RamSel)
  | subwf (f : Byte) (d : Dest) (a : RamSel)
  | subwfb (f : Byte) (d : Dest) (a : RamSel)
  | swapf (f : Byte) (d : Dest) (a : RamSel)
  | tstfsz (f : Byte) (a : RamSel)
  | xorwf (f : Byte) (d : Dest) (a : RamSel)
  -- bit-oriented file register operations (41_bit_oriented.md)
  | bcf (f : Byte) (b : BitVec 3) (a : RamSel)
  | bsf (f : Byte) (b : BitVec 3) (a : RamSel)
  | btfsc (f : Byte) (b : BitVec 3) (a : RamSel)
  | btfss (f : Byte) (b : BitVec 3) (a : RamSel)
  | btg (f : Byte) (b : BitVec 3) (a : RamSel)
  -- control operations (42_control.md)
  | bc (n : BitVec 8)
  | bn (n : BitVec 8)
  | bnc (n : BitVec 8)
  | bnn (n : BitVec 8)
  | bnov (n : BitVec 8)
  | bnz (n : BitVec 8)
  | bov (n : BitVec 8)
  | bra (n : BitVec 11)
  | bz (n : BitVec 8)
  | call (k : BitVec 20) (fast : Bool)
  | clrwdt
  | daw
  | goto (k : BitVec 20)
  | nop
  | nop2 (x : BitVec 12)
  | pop
  | push
  | rcall (n : BitVec 11)
  | reset
  | retfie (fast : Bool)
  | retlw (k : Byte)
  | retn (fast : Bool)
  | sleep
  -- literal operations (43_literal.md)
  | addlw (k : Byte)
  | andlw (k : Byte)
  | iorlw (k : Byte)
  | lfsr (ff : BitVec 2) (k : BitVec 12)
  | movlb (k : BitVec 4)
  | movlw (k : Byte)
  | mullw (k : Byte)
  | sublw (k : Byte)
  | xorlw (k : Byte)
  -- data memory / program memory operations (44_table.md)
  | tblrd
  | tblrdPostInc
  | tblrdPostDec
  | tblrdPreInc
  | tblwt
  | tblwtPostInc
  | tblwtPostDec
  | tblwtPreInc
  deriving DecidableEq, Repr

end Sys2Proof
end

