-- ==== Sys2Proof/WellFormed.lean ====
section
/-! DEFINITION. Which instruction terms stand for an instruction of the machine. Every operand's width is in its type;
the one operand value that names nothing is `ff = 11` of LFSR. -/

namespace Sys2Proof

/-- 30_encoding.md R137, R160: LFSR's `ff = 11` selects no FSR; every other operand value is legal
(60_exceptions.md R352). -/
def Instr.wellFormed : Instr → Bool
  | .lfsr ff _ => ff != 3#2
  | .addwf _ _ _ | .addwfc _ _ _ | .andwf _ _ _ | .clrf _ _ | .comf _ _ _ | .cpfseq _ _ | .cpfsgt _ _
  | .cpfslt _ _ | .decf _ _ _ | .decfsz _ _ _ | .dcfsnz _ _ _ | .incf _ _ _ | .incfsz _ _ _ | .infsnz _ _ _
  | .iorwf _ _ _ | .movf _ _ _ | .movff _ _ | .movwf _ _ | .mulwf _ _ | .negf _ _ | .rlcf _ _ _ | .rlncf _ _ _
  | .rrcf _ _ _ | .rrncf _ _ _ | .setf _ _ | .subfwb _ _ _ | .subwf _ _ _ | .subwfb _ _ _ | .swapf _ _ _
  | .tstfsz _ _ | .xorwf _ _ _ | .bcf _ _ _ | .bsf _ _ _ | .btfsc _ _ _ | .btfss _ _ _ | .btg _ _ _
  | .bc _ | .bn _ | .bnc _ | .bnn _ | .bnov _ | .bnz _ | .bov _ | .bra _ | .bz _ | .call _ _ | .clrwdt | .daw
  | .goto _ | .nop | .nop2 _ | .pop | .push | .rcall _ | .reset | .retfie _ | .retlw _ | .retn _ | .sleep
  | .addlw _ | .andlw _ | .iorlw _ | .movlb _ | .movlw _ | .mullw _ | .sublw _ | .xorlw _
  | .tblrd | .tblrdPostInc | .tblrdPostDec | .tblrdPreInc
  | .tblwt | .tblwtPostInc | .tblwtPostDec | .tblwtPreInc => true

end Sys2Proof
end

