-- ==== Sys2Proof/Decode.lean ====
section
/-! DEFINITION. From instruction words to instructions and back (30_encoding.md R130 to R162). The decoder follows the
opcode map of R158 by the high byte of the first word; the encoder is written from the formats R131 to R144. -/

namespace Sys2Proof

/-- Why bytes are not an instruction. -/
inductive Reject where
  /-- The first word matches no row (R160), or is LFSR with `ff = 11` (D20). -/
  | unassigned (w : Word)
  /-- R151: the second word of a two-word instruction lacks its fixed bits. -/
  | malformedSecondWord (w2 : Word)
  /-- The bytes end inside a word. -/
  | truncated
  deriving DecidableEq, Repr

/-- R155, field `d`. -/
def destOfBit (b : Bool) : Dest := if b then .f else .w

/-- R155, field `a`. -/
def ramOfBit (b : Bool) : RamSel := if b then .banked else .access

/-- R155, field `d`. -/
def bitOfDest : Dest → Bool
  | .w => false
  | .f => true

/-- R155, field `a`. -/
def bitOfRam : RamSel → Bool
  | .access => false
  | .banked => true

/-- The words whose high byte is 00, by low byte (R142, R143, R158). -/
def decodeZeroPage (lo : Byte) : Option Instr :=
  match lo.toNat with
  | 0x00 => some .nop
  | 0x03 => some .sleep
  | 0x04 => some .clrwdt
  | 0x05 => some .push
  | 0x06 => some .pop
  | 0x07 => some .daw
  | 0x08 => some .tblrd
  | 0x09 => some .tblrdPostInc
  | 0x0A => some .tblrdPostDec
  | 0x0B => some .tblrdPreInc
  | 0x0C => some .tblwt
  | 0x0D => some .tblwtPostInc
  | 0x0E => some .tblwtPostDec
  | 0x0F => some .tblwtPreInc
  | 0x10 => some (.retfie false)
  | 0x11 => some (.retfie true)
  | 0x12 => some (.retn false)
  | 0x13 => some (.retn true)
  | 0xFF => some .reset
  | _ => none

/-- The literal instructions of format `LIT8`, by high byte 08 to 0F (R135, R158). -/
def decodeLiteral (hi : Byte) (k : Byte) : Option Instr :=
  match hi.toNat with
  | 0x08 => some (.sublw k)
  | 0x09 => some (.iorlw k)
  | 0x0A => some (.xorlw k)
  | 0x0B => some (.andlw k)
  | 0x0C => some (.retlw k)
  | 0x0D => some (.mullw k)
  | 0x0E => some (.movlw k)
  | 0x0F => some (.addlw k)
  | _ => none

/-- The conditional branches, by the condition `ccc` (R138). -/
def decodeBranch (ccc : BitVec 3) (n : BitVec 8) : Instr :=
  match ccc.toNat with
  | 0 => .bz n
  | 1 => .bnz n
  | 2 => .bc n
  | 3 => .bnc n
  | 4 => .bov n
  | 5 => .bnov n
  | 6 => .bn n
  | _ => .bnn n

/-- The opcode map of R158 by the high byte `hi` of the first word, with its low byte `lo` and, for the two-word
instructions, the second word `w2` (fields by R155; `w2`'s fixed bits are R151's check, `secondWordOk`). -/
def decodeHigh (hi lo : Byte) (w2 : Word) : Option Instr :=
  let d := destOfBit (hi.getLsbD 1)
  let a := ramOfBit (hi.getLsbD 0)
  let b := hi.extractLsb' 1 3
  match hi.toNat / 4 with
  | 0 =>
    match hi.toNat with
    | 0 => decodeZeroPage lo
    | 1 => if lo.extractLsb' 4 4 = 0#4 then some (.movlb (lo.extractLsb' 0 4)) else none
    | _ => some (.mulwf lo a)
  | 1 => some (.decf lo d a)
  | 2 | 3 => decodeLiteral hi lo
  | 4 => some (.iorwf lo d a)
  | 5 => some (.andwf lo d a)
  | 6 => some (.xorwf lo d a)
  | 7 => some (.comf lo d a)
  | 8 => some (.addwfc lo d a)
  | 9 => some (.addwf lo d a)
  | 10 => some (.incf lo d a)
  | 11 => some (.decfsz lo d a)
  | 12 => some (.rrcf lo d a)
  | 13 => some (.rlcf lo d a)
  | 14 => some (.swapf lo d a)
  | 15 => some (.incfsz lo d a)
  | 16 => some (.rrncf lo d a)
  | 17 => some (.rlncf lo d a)
  | 18 => some (.infsnz lo d a)
  | 19 => some (.dcfsnz lo d a)
  | 20 => some (.movf lo d a)
  | 21 => some (.subfwb lo d a)
  | 22 => some (.subwfb lo d a)
  | 23 => some (.subwf lo d a)
  | 24 => some (if hi.getLsbD 1 then .cpfseq lo a else .cpfslt lo a)
  | 25 => some (if hi.getLsbD 1 then .tstfsz lo a else .cpfsgt lo a)
  | 26 => some (if hi.getLsbD 1 then .clrf lo a else .setf lo a)
  | 27 => some (if hi.getLsbD 1 then .movwf lo a else .negf lo a)
  | 28 | 29 | 30 | 31 => some (.btg lo b a)
  | 32 | 33 | 34 | 35 => some (.bsf lo b a)
  | 36 | 37 | 38 | 39 => some (.bcf lo b a)
  | 40 | 41 | 42 | 43 => some (.btfss lo b a)
  | 44 | 45 | 46 | 47 => some (.btfsc lo b a)
  | 48 | 49 | 50 | 51 => some (.movff (hi.extractLsb' 0 4 ++ lo) (w2.extractLsb' 0 12))
  | 52 | 53 => some (.bra (hi.extractLsb' 0 3 ++ lo))
  | 54 | 55 => some (.rcall (hi.extractLsb' 0 3 ++ lo))
  | 56 | 57 => some (decodeBranch (hi.extractLsb' 0 3) lo)
  | 59 =>
    match hi.toNat with
    | 0xEE =>
      if lo.extractLsb' 6 2 = 0#2 ∧ lo.extractLsb' 4 2 ≠ 3#2 then
        some (.lfsr (lo.extractLsb' 4 2) (lo.extractLsb' 0 4 ++ w2.extractLsb' 0 8))
      else none
    | 0xEF => some (.goto (w2.extractLsb' 0 12 ++ lo))
    | _ => some (.call (w2.extractLsb' 0 12 ++ lo) (hi.getLsbD 0))
  | 60 | 61 | 62 | 63 => some (.nop2 (hi.extractLsb' 0 4 ++ lo))
  | _ => none

/-- R162 less the check of R151: the instruction a first word `w1` and the word `w2` after it stand for. -/
def decodeWords (w1 w2 : Word) : Except Reject Instr :=
  match decodeHigh (w1.extractLsb' 8 8) (w1.extractLsb' 0 8) w2 with
  | some i => .ok i
  | none => .error (.unassigned w1)

/-- R160: the word is the first word of some instruction. -/
def isAssigned (w : Word) : Bool := (decodeHigh (w.extractLsb' 8 8) (w.extractLsb' 0 8) 0xF000#16).isSome

/-- R150, `IsTwoWordFirst`: MOVFF, CALL, GOTO, LFSR. -/
def isTwoWordFirst (w : Word) : Bool :=
  w.extractLsb' 12 4 == 0xC#4 || w.extractLsb' 9 7 == 0b1110110#7 || w.extractLsb' 8 8 == 0xEF#8
    || w.extractLsb' 6 10 == 0b1110111000#10

/-- R151: the fixed bits of the second word `w2` after the first word `w1`. -/
def secondWordOk (w1 w2 : Word) : Bool :=
  w2.extractLsb' 12 4 == 0xF#4 && (w1.extractLsb' 8 8 != 0xEE#8 || w2.extractLsb' 8 4 == 0#4)

/-- R162: the decoding procedure with the check of R151. -/
def decodeChecked (w1 w2 : Word) : Except Reject Instr :=
  match decodeWords w1 w2 with
  | .error e => .error e
  | .ok i => if isTwoWordFirst w1 && !secondWordOk w1 w2 then .error (.malformedSecondWord w2) else .ok i

/-- R93: the low byte of a word is at the lower address. -/
def wordOfBytes (lo hi : Byte) : Word := hi ++ lo

/-- The next instruction of a list of bytes, and the bytes after it. -/
def decode : List Byte → Except Reject (Instr × List Byte)
  | b0 :: b1 :: rest =>
    let w1 := wordOfBytes b0 b1
    if !isAssigned w1 then .error (.unassigned w1)
    else if isTwoWordFirst w1 then
      match rest with
      | b2 :: b3 :: rest' =>
        match decodeChecked w1 (wordOfBytes b2 b3) with
        | .ok i => .ok (i, rest')
        | .error e => .error e
      | _ => .error .truncated
    else
      match decodeChecked w1 0#16 with
      | .ok i => .ok (i, rest)
      | .error e => .error e
  | _ => .error .truncated

/-- Format `BYTE_D` (R131). -/
def formatByteD (o : BitVec 6) (f : Byte) (d : Dest) (a : RamSel) : Word :=
  (o ++ bit (bitOfDest d) ++ bit (bitOfRam a) : BitVec 8) ++ f

/-- Format `BYTE_A` (R132). -/
def formatByteA (o : BitVec 7) (f : Byte) (a : RamSel) : Word := (o ++ bit (bitOfRam a) : BitVec 8) ++ f

/-- Format `BIT` (R133). -/
def formatBit (o : BitVec 4) (f : Byte) (b : BitVec 3) (a : RamSel) : Word :=
  (o ++ b ++ bit (bitOfRam a) : BitVec 8) ++ f

/-- Format `LIT8` (R135). -/
def formatLit8 (o : BitVec 8) (k : Byte) : Word := o ++ k

/-- Format `BCC` (R138). -/
def formatBcc (ccc : BitVec 3) (n : BitVec 8) : Word := (0b11100#5 ++ ccc : BitVec 8) ++ n

/-- Format `REL11` (R139). -/
def formatRel11 (o : BitVec 1) (n : BitVec 11) : Word :=
  (0b1101#4 ++ o ++ n.extractLsb' 8 3 : BitVec 8) ++ n.extractLsb' 0 8

/-- A second word with twelve operand bits (R134, R140, R141) and the form NOP2 (R144). -/
def formatSecond (x : BitVec 12) : Word := 0xF#4 ++ x

/-- The first word of an instruction, from the formats R131 to R144. -/
def encodeFirst : Instr → Word
  | .addwf f d a => formatByteD 0b001001#6 f d a
  | .addwfc f d a => formatByteD 0b001000#6 f d a
  | .andwf f d a => formatByteD 0b000101#6 f d a
  | .clrf f a => formatByteA 0b0110101#7 f a
  | .comf f d a => formatByteD 0b000111#6 f d a
  | .cpfseq f a => formatByteA 0b0110001#7 f a
  | .cpfsgt f a => formatByteA 0b0110010#7 f a
  | .cpfslt f a => formatByteA 0b0110000#7 f a
  | .decf f d a => formatByteD 0b000001#6 f d a
  | .decfsz f d a => formatByteD 0b001011#6 f d a
  | .dcfsnz f d a => formatByteD 0b010011#6 f d a
  | .incf f d a => formatByteD 0b001010#6 f d a
  | .incfsz f d a => formatByteD 0b001111#6 f d a
  | .infsnz f d a => formatByteD 0b010010#6 f d a
  | .iorwf f d a => formatByteD 0b000100#6 f d a
  | .movf f d a => formatByteD 0b010100#6 f d a
  | .movff fs _ => (0b1100#4 ++ fs.extractLsb' 8 4 : BitVec 8) ++ fs.extractLsb' 0 8
  | .movwf f a => formatByteA 0b0110111#7 f a
  | .mulwf f a => formatByteA 0b0000001#7 f a
  | .negf f a => formatByteA 0b0110110#7 f a
  | .rlcf f d a => formatByteD 0b001101#6 f d a
  | .rlncf f d a => formatByteD 0b010001#6 f d a
  | .rrcf f d a => formatByteD 0b001100#6 f d a
  | .rrncf f d a => formatByteD 0b010000#6 f d a
  | .setf f a => formatByteA 0b0110100#7 f a
  | .subfwb f d a => formatByteD 0b010101#6 f d a
  | .subwf f d a => formatByteD 0b010111#6 f d a
  | .subwfb f d a => formatByteD 0b010110#6 f d a
  | .swapf f d a => formatByteD 0b001110#6 f d a
  | .tstfsz f a => formatByteA 0b0110011#7 f a
  | .xorwf f d a => formatByteD 0b000110#6 f d a
  | .bcf f b a => formatBit 0b1001#4 f b a
  | .bsf f b a => formatBit 0b1000#4 f b a
  | .btfsc f b a => formatBit 0b1011#4 f b a
  | .btfss f b a => formatBit 0b1010#4 f b a
  | .btg f b a => formatBit 0b0111#4 f b a
  | .bc n => formatBcc 0b010#3 n
  | .bn n => formatBcc 0b110#3 n
  | .bnc n => formatBcc 0b011#3 n
  | .bnn n => formatBcc 0b111#3 n
  | .bnov n => formatBcc 0b101#3 n
  | .bnz n => formatBcc 0b001#3 n
  | .bov n => formatBcc 0b100#3 n
  | .bra n => formatRel11 0#1 n
  | .bz n => formatBcc 0b000#3 n
  | .call k fast => (0b1110110#7 ++ bit fast : BitVec 8) ++ k.extractLsb' 0 8
  | .clrwdt => 0x0004#16
  | .daw => 0x0007#16
  | .goto k => 0xEF#8 ++ k.extractLsb' 0 8
  | .nop => 0x0000#16
  | .nop2 x => (0xF#4 ++ x.extractLsb' 8 4 : BitVec 8) ++ x.extractLsb' 0 8
  | .pop => 0x0006#16
  | .push => 0x0005#16
  | .rcall n => formatRel11 1#1 n
  | .reset => 0x00FF#16
  | .retfie fast => 0x00#8 ++ (0b0001000#7 ++ bit fast : BitVec 8)
  | .retlw k => formatLit8 0x0C#8 k
  | .retn fast => 0x00#8 ++ (0b0001001#7 ++ bit fast : BitVec 8)
  | .sleep => 0x0003#16
  | .addlw k => formatLit8 0x0F#8 k
  | .andlw k => formatLit8 0x0B#8 k
  | .iorlw k => formatLit8 0x09#8 k
  | .lfsr ff k => 0xEE#8 ++ (0b00#2 ++ ff ++ k.extractLsb' 8 4 : BitVec 8)
  | .movlb k => 0x01#8 ++ (0x0#4 ++ k : BitVec 8)
  | .movlw k => formatLit8 0x0E#8 k
  | .mullw k => formatLit8 0x0D#8 k
  | .sublw k => formatLit8 0x08#8 k
  | .xorlw k => formatLit8 0x0A#8 k
  | .tblrd => 0x0008#16
  | .tblrdPostInc => 0x0009#16
  | .tblrdPostDec => 0x000A#16
  | .tblrdPreInc => 0x000B#16
  | .tblwt => 0x000C#16
  | .tblwtPostInc => 0x000D#16
  | .tblwtPostDec => 0x000E#16
  | .tblwtPreInc => 0x000F#16

/-- The second word of a two-word instruction (R134, R137, R140, R141); `none` for a one-word instruction. -/
def encodeSecond : Instr → Option Word
  | .movff _ fd => some (formatSecond fd)
  | .call k _ => some (formatSecond (k.extractLsb' 8 12))
  | .goto k => some (formatSecond (k.extractLsb' 8 12))
  | .lfsr _ k => some (0xF0#8 ++ k.extractLsb' 0 8)
  | .addwf _ _ _ | .addwfc _ _ _ | .andwf _ _ _ | .clrf _ _ | .comf _ _ _ | .cpfseq _ _ | .cpfsgt _ _
  | .cpfslt _ _ | .decf _ _ _ | .decfsz _ _ _ | .dcfsnz _ _ _ | .incf _ _ _ | .incfsz _ _ _ | .infsnz _ _ _
  | .iorwf _ _ _ | .movf _ _ _ | .movwf _ _ | .mulwf _ _ | .negf _ _ | .rlcf _ _ _ | .rlncf _ _ _
  | .rrcf _ _ _ | .rrncf _ _ _ | .setf _ _ | .subfwb _ _ _ | .subwf _ _ _ | .subwfb _ _ _ | .swapf _ _ _
  | .tstfsz _ _ | .xorwf _ _ _ | .bcf _ _ _ | .bsf _ _ _ | .btfsc _ _ _ | .btfss _ _ _ | .btg _ _ _
  | .bc _ | .bn _ | .bnc _ | .bnn _ | .bnov _ | .bnz _ | .bov _ | .bra _ | .bz _ | .clrwdt | .daw
  | .nop | .nop2 _ | .pop | .push | .rcall _ | .reset | .retfie _ | .retlw _ | .retn _ | .sleep
  | .addlw _ | .andlw _ | .iorlw _ | .movlb _ | .movlw _ | .mullw _ | .sublw _ | .xorlw _
  | .tblrd | .tblrdPostInc | .tblrdPostDec | .tblrdPreInc
  | .tblwt | .tblwtPostInc | .tblwtPostDec | .tblwtPreInc => none

/-- The words of an instruction, first word first. -/
def encode (i : Instr) : List Word :=
  match encodeSecond i with
  | some w2 => [encodeFirst i, w2]
  | none => [encodeFirst i]

/-- R130, R150: how many words the instruction has. -/
def instrWords (i : Instr) : Nat := (encode i).length

/-- The bytes of an instruction as program memory holds them (R93). -/
def encodeBytes (i : Instr) : List Byte :=
  (encode i).flatMap fun w => [w.extractLsb' 0 8, w.extractLsb' 8 8]

/-- The bytes of the two words an instruction may have, from the number that spec/opcode_table.json reads them as: bit 0
is the least significant bit of the first word, and bits above `nbits` are 0. -/
def tableBytes (nbits w : Nat) : List Byte :=
  let v := w % 2 ^ nbits
  [BitVec.ofNat 8 v, BitVec.ofNat 8 (v / 2 ^ 8), BitVec.ofNat 8 (v / 2 ^ 16), BitVec.ofNat 8 (v / 2 ^ 24)]

/-- The instruction the decoder reads from an instruction of the opcode table whose bits are `w`. It is R162's field
extraction: the fixed bits of a second word (R151) are checked when the instruction is fetched, because the
configuration decides what their absence means (log 10). -/
def decodeTableWord (nbits w : Nat) : Option Instr :=
  match tableBytes nbits w with
  | [b0, b1, b2, b3] => (decodeWords (wordOfBytes b0 b1) (wordOfBytes b2 b3)).toOption
  | _ => none

end Sys2Proof
end

