-- ==== Sys2Proof/Machine/Sfr.lean ====
section
/-! DEFINITION. The special function register map P_SFR_MAP with its table (10_state.md R60), what a data address names,
and the configuration of the machine after reset. -/

namespace Sys2Proof

/-- 10_state.md R60, row by row. -/
def r60Map : List SfrRow := [
  ⟨0xFFF#12, .core .tosu⟩,
  ⟨0xFFE#12, .core .tosh⟩,
  ⟨0xFFD#12, .core .tosl⟩,
  ⟨0xFFC#12, .core .stkptr⟩,
  ⟨0xFFB#12, .core .pclatu⟩,
  ⟨0xFFA#12, .core .pclath⟩,
  ⟨0xFF9#12, .core .pcl⟩,
  ⟨0xFF8#12, .core .tblptru⟩,
  ⟨0xFF7#12, .core .tblptrh⟩,
  ⟨0xFF6#12, .core .tblptrl⟩,
  ⟨0xFF5#12, .core .tablat⟩,
  ⟨0xFF4#12, .core .prodh⟩,
  ⟨0xFF3#12, .core .prodl⟩,
  ⟨0xFF2#12, .core .intcon⟩,
  ⟨0xFEF#12, .virt ⟨.indf, .f0⟩⟩,
  ⟨0xFEE#12, .virt ⟨.postinc, .f0⟩⟩,
  ⟨0xFED#12, .virt ⟨.postdec, .f0⟩⟩,
  ⟨0xFEC#12, .virt ⟨.preinc, .f0⟩⟩,
  ⟨0xFEB#12, .virt ⟨.plusw, .f0⟩⟩,
  ⟨0xFEA#12, .core (.fsrh .f0)⟩,
  ⟨0xFE9#12, .core (.fsrl .f0)⟩,
  ⟨0xFE8#12, .core .wreg⟩,
  ⟨0xFE7#12, .virt ⟨.indf, .f1⟩⟩,
  ⟨0xFE6#12, .virt ⟨.postinc, .f1⟩⟩,
  ⟨0xFE5#12, .virt ⟨.postdec, .f1⟩⟩,
  ⟨0xFE4#12, .virt ⟨.preinc, .f1⟩⟩,
  ⟨0xFE3#12, .virt ⟨.plusw, .f1⟩⟩,
  ⟨0xFE2#12, .core (.fsrh .f1)⟩,
  ⟨0xFE1#12, .core (.fsrl .f1)⟩,
  ⟨0xFE0#12, .core .bsr⟩,
  ⟨0xFDF#12, .virt ⟨.indf, .f2⟩⟩,
  ⟨0xFDE#12, .virt ⟨.postinc, .f2⟩⟩,
  ⟨0xFDD#12, .virt ⟨.postdec, .f2⟩⟩,
  ⟨0xFDC#12, .virt ⟨.preinc, .f2⟩⟩,
  ⟨0xFDB#12, .virt ⟨.plusw, .f2⟩⟩,
  ⟨0xFDA#12, .core (.fsrh .f2)⟩,
  ⟨0xFD9#12, .core (.fsrl .f2)⟩,
  ⟨0xFD8#12, .core .status⟩,
  ⟨0xFD0#12, .core .rcon⟩]

/-- The spec's defaults (00_scope.md R7); for the OPEN parameters the values the spec's own vectors use
(95_test_vectors.md section 0). DESIGN CHOICE for the OPEN ones, log 5. -/
def Config.default : Config where
  iw := ⟨16, rfl⟩
  dw := ⟨8, rfl⟩
  da := ⟨12, rfl⟩
  banks := ⟨16, rfl⟩
  pcw := ⟨21, rfl⟩
  tblptrW := ⟨22, rfl⟩
  pmImpl := [⟨0x000000, 0x001FFF⟩]
  gprImpl := [⟨0x000, 0x0FF⟩]
  accessSplit := 0x80#8
  sfrMap := r60Map
  stackDepth := 31
  stvren := false
  unassigned := .refuse
  flagsVariant := .corrected
  dawVariant := .propagate
  periph := .refuse
  pclAccess := .asR42
  edges := .stop

end Sys2Proof

namespace Sys2Proof.Machine

/-- The row of the map at an address: the register it names. -/
def regAt (cfg : Config) (t : DataAddr) : Option SfrName :=
  (cfg.sfrMap.find? fun row => row.addr == t).map SfrRow.name

/-- The core register at an address, if there is one. -/
def sfrAt (cfg : Config) (t : DataAddr) : Option Sfr :=
  match regAt cfg t with
  | some (.core r) => some r
  | some (.virt _) | none => none

/-- The virtual register at an address, if there is one. -/
def virtAt (cfg : Config) (t : DataAddr) : Option Virt :=
  match regAt cfg t with
  | some (.virt q) => some q
  | some (.core _) | none => none

/-- The address lies in one of the ranges. -/
def inRanges (rs : List AddrRange) (a : Nat) : Bool := rs.any fun r => r.lo ≤ a && a ≤ r.hi

/-- `t in P_GPR_IMPL`. -/
def gprOk (cfg : Config) (t : DataAddr) : Bool := inRanges cfg.gprImpl t.toNat

/-- The program byte is in P_PM_IMPL. -/
def pmOk (cfg : Config) (a : ProgAddr) : Bool := inRanges cfg.pmImpl a.toNat

/-- What a resolved data address names. -/
inductive Place where
  /-- A general-purpose register. -/
  | gpr
  /-- A virtual register, reached as the target of an indirect access (20_memory.md R107). -/
  | virt
  /-- A core special function register. -/
  | core (r : Sfr)
  /-- Neither: P_PERIPH (20_memory.md R106). -/
  | outside
  deriving DecidableEq, Repr

/-- The case distinction of 20_memory.md R104 and R105, general-purpose RAM first (log 24). -/
def placeOf (cfg : Config) (t : DataAddr) : Place :=
  if gprOk cfg t then .gpr
  else
    match regAt cfg t with
    | some (.virt _) => .virt
    | some (.core r) => .core r
    | none => .outside

end Sys2Proof.Machine
end

