-- ==== Sys2Proof/Machine/State.lean ====
section
/-! DEFINITION. The state of the machine as plain data, the reasons a step can stop, and the state after power-on
(10_state.md; 60_exceptions.md R351). INVENTORY.md lists each field with its rule and its reset value. -/

namespace Sys2Proof.Machine

/-- The five arithmetic flags, STATUS[4:0] (10_state.md R31). -/
structure Flags where
  n : Bool
  ov : Bool
  z : Bool
  dc : Bool
  c : Bool
  deriving DecidableEq, Repr

/-- Bytes by address, in one canonical form (`Memory.wf`): addresses strictly rising, no byte equal to what an
unlisted address reads as. -/
abbrev Memory := List Host.Cell

/-- The resets that come from outside the core and are not a watchdog time-out (70_reset_and_hazards.md R390). -/
inductive ExtReset where
  | masterClear
  | brownOut
  deriving DecidableEq, Repr

/-- What the environment does at one instruction boundary: the oracle P_IRQ's pair of requests (60_exceptions.md R361),
a watchdog time-out (R370, R372), a reset from outside (70_reset_and_hazards.md R390), and the addresses behind P_PERIPH
whose read value changes (R379). -/
structure Input where
  irqHigh : Bool
  irqLow : Bool
  wdtTimeout : Bool
  reset : Option ExtReset
  periph : List Host.Cell
  deriving DecidableEq, Repr

/-- The silent oracles (R361, 70_reset_and_hazards.md R394). -/
def Input.silent : Input := ⟨false, false, false, none, []⟩

/-- The whole machine. -/
structure State where
  /-- WREG, R30. -/
  w : Byte
  /-- STATUS[4:0], R31. -/
  flags : Flags
  /-- BSR[3:0], R34. -/
  bsr : BitVec 4
  /-- FSR0, R38. -/
  fsr0 : BitVec 12
  /-- FSR1, R38. -/
  fsr1 : BitVec 12
  /-- FSR2, R38. -/
  fsr2 : BitVec 12
  /-- PRODH, R39. -/
  prodh : Byte
  /-- PRODL, R39. -/
  prodl : Byte
  /-- TBLPTR, R51. -/
  tblptr : BitVec 22
  /-- TABLAT, R51. -/
  tablat : Byte
  /-- The byte address of the first word of the instruction being executed, R40. -/
  pc : ProgAddr
  /-- PCLATH, R42. -/
  pclath : Byte
  /-- PCLATU[4:0], R42. -/
  pclatu : BitVec 5
  /-- STACK[1] to STACK[31] at indexes 0 to 30, R44. -/
  stack : Vector (BitVec 21) 31
  /-- SP, STKPTR[4:0], R44. -/
  sp : BitVec 5
  /-- STKPTR[7], R45. -/
  stkful : Bool
  /-- STKPTR[6], R45. -/
  stkunf : Bool
  /-- The shadow of WREG, R50. -/
  ws : Byte
  /-- The shadow of STATUS, R50. -/
  statuss : Byte
  /-- The shadow of BSR, R50. -/
  bsrs : Byte
  /-- GIE/GIEH, INTCON[7], R52. -/
  gieh : Bool
  /-- PEIE/GIEL, INTCON[6], R52. -/
  giel : Bool
  /-- INTCON[5:0], plain stored bits, R52. -/
  intcon50 : BitVec 6
  /-- RCON[7], R52. -/
  ipen : Bool
  /-- RCON[6], R53. -/
  lwrt : Bool
  /-- RCON[4], R53. -/
  ri : Bool
  /-- RCON[3], R53. -/
  toBit : Bool
  /-- RCON[2], R53. -/
  pdBit : Bool
  /-- RCON[1], R53. -/
  por : Bool
  /-- RCON[0], R53. -/
  bor : Bool
  /-- Standby mode, R54. -/
  asleep : Bool
  /-- The table-write holding register for even addresses, R54, 44_table.md R335. -/
  hold0 : Byte
  /-- The table-write holding register for odd addresses. -/
  hold1 : Byte
  /-- Data memory: the bytes of P_GPR_IMPL, R35. -/
  dm : Memory
  /-- Program memory, 20_memory.md R91. -/
  pm : Memory
  /-- What the environment does at the coming boundaries, the next one first; when it is empty the oracles are silent
  (the model's own field, log 7). -/
  inputs : List Input
  /-- A high-level request latched by a wake-up, R370 (c) (the model's own, log 13). -/
  heldHigh : Bool
  /-- A low-level request latched by a wake-up (the model's own, log 13). -/
  heldLow : Bool
  /-- What the addresses behind P_PERIPH read as (the model's own, log 8). -/
  periphIn : Memory
  /-- What was last written to the addresses behind P_PERIPH (the model's own, log 8). -/
  periphOut : Memory
  /-- The number of the next free value (the model's own, log 6). -/
  freeCtr : Nat
  /-- The implementation parameters (00_scope.md R7); no step changes them. -/
  cfg : Config
  deriving DecidableEq, Repr

/-- The machine stops where the hardware does something definite that the spec treats as an error state (60_exceptions.md
R351, kind "fault"). -/
inductive Fault where
  /-- Raised by a push that fills the stack (SP = 31) with P_STVREN set, when `edges = stop` (10_state.md R46, D8). Safe: the
  hardware resets, the model stops. -/
  | stackFullReset
  /-- Raised by a push onto the full stack (SP = 31), when `edges = stop` (10_state.md R46, D8). Safe: the model stops. -/
  | stackOverflow
  /-- Raised by a pop at SP = 0, when `edges = stop` (10_state.md R47, D8). Safe: the model stops. -/
  | stackUnderflow
  deriving DecidableEq, Repr

/-- The machine declines to go on: the behaviour is out of the spec's scope or the spec does not settle it
(60_exceptions.md R351, kind "refuse"). Every one is safe: the model stops where the hardware goes on. -/
inductive Refusal where
  /-- Raised by an arm of `exec` whose instruction has no meaning yet. Safe. -/
  | notModelled (mnemonic : String)
  /-- Raised by fetch on an unassigned word when P_UNASSIGNED is `refuse`, by a skip over one, and by LFSR with
  `ff = 11` (30_encoding.md R152, R160, D4, D20, D24). Safe. -/
  | unassignedOpcode (pc : ProgAddr) (w : Word)
  /-- Raised by fetch on a second word without its fixed bits, when `edges = stop` (30_encoding.md R151, D5). Safe. -/
  | malformedSecondWord (pc : ProgAddr) (w2 : Word)
  /-- Raised by a fetch outside P_PM_IMPL, when `edges = stop` (10_state.md R41, D17). Safe. -/
  | fetchOutsideProgramMemory (addr : ProgAddr)
  /-- Raised by a table read outside P_PM_IMPL, when `edges = stop` (44_table.md R331, D17). Safe. -/
  | tableReadOutsideProgramMemory (addr : ProgAddr)
  /-- Raised by a table access with TBLPTR[21] = 1 (44_table.md R330, D27). Safe. -/
  | tableAccessConfigSpace (tblptr : BitVec 22)
  /-- Raised by a table write with LWRT = 1 (44_table.md R335, D7). Safe. -/
  | tableWriteNotModelled (tblptr : BitVec 22)
  /-- Raised by a write of TOSU, TOSH or TOSL at SP = 0 (10_state.md R48, D22). Safe. -/
  | tosAccessAtEmptyStack
  /-- Raised by an indirect access whose target is POSTINC, POSTDEC, PREINC or PLUSW, or the FSR it modifies
  (20_memory.md R107, D16). Safe. -/
  | indirectTargetUndefined (ea t : DataAddr)
  /-- Raised by an access to an address that is neither implemented RAM nor a core register when P_PERIPH is `refuse`
  (20_memory.md R106, D15). Safe. -/
  | dataAddressNotModelled (t : DataAddr)
  /-- Raised by MOVFF to PCL, TOSU, TOSH or TOSL (40_byte_oriented.md R217, D19). Safe. -/
  | forbiddenMovffDestination (td : DataAddr)
  /-- Raised by a data access to PCL in the cautious configuration (10_state.md R42, D21). Safe. -/
  | pclAccessRefused (t : DataAddr)
  deriving DecidableEq, Repr

/-- The five flags, all clear. -/
def Flags.clear : Flags := ⟨false, false, false, false, false⟩

/-- The machine after power-on (10_state.md R70, column "power-on"; 70_reset_and_hazards.md R391, R394). Where R70 has
`x` the value is the model's: 0 (DESIGN CHOICE, log 1 to 3); the program is loaded from outside (log 4); the oracles
are silent; the parameters are the spec's defaults (log 5). -/
def State.reset : State where
  w := 0
  flags := Flags.clear
  bsr := 0
  fsr0 := 0
  fsr1 := 0
  fsr2 := 0
  prodh := 0
  prodl := 0
  tblptr := 0
  tablat := 0
  pc := 0
  pclath := 0
  pclatu := 0
  stack := Vector.replicate 31 0
  sp := 0
  stkful := false
  stkunf := false
  ws := 0
  statuss := 0
  bsrs := 0
  gieh := false
  giel := false
  intcon50 := 0
  ipen := false
  lwrt := false
  ri := true
  toBit := true
  pdBit := true
  por := false
  bor := false
  asleep := false
  hold0 := 0
  hold1 := 0
  dm := []
  pm := []
  inputs := []
  heldHigh := false
  heldLow := false
  periphIn := []
  periphOut := []
  freeCtr := 0
  cfg := Config.default

/-! Named updates, one field (or one group that changes together) each; `Sys2Proof/Laws/State.lean` says what each leaves. -/

def State.setW (s : State) (v : Byte) : State := { s with w := v }
def State.setFlags (s : State) (v : Flags) : State := { s with flags := v }
def State.setPc (s : State) (v : ProgAddr) : State := { s with pc := v }
def State.setBsr (s : State) (v : BitVec 4) : State := { s with bsr := v }
def State.setProd (s : State) (v : BitVec 16) : State :=
  { s with prodh := v.extractLsb' 8 8, prodl := v.extractLsb' 0 8 }
def State.setTblptr (s : State) (v : BitVec 22) : State := { s with tblptr := v }
def State.setTablat (s : State) (v : Byte) : State := { s with tablat := v }
def State.setLatches (s : State) (u : BitVec 5) (h : Byte) : State := { s with pclatu := u, pclath := h }
def State.setDm (s : State) (v : Memory) : State := { s with dm := v }
def State.setStack (s : State) (v : Vector (BitVec 21) 31) : State := { s with stack := v }
def State.setSp (s : State) (v : BitVec 5) : State := { s with sp := v }
def State.setStkful (s : State) (v : Bool) : State := { s with stkful := v }
def State.setStkunf (s : State) (v : Bool) : State := { s with stkunf := v }
def State.setGieh (s : State) (v : Bool) : State := { s with gieh := v }
def State.setGiel (s : State) (v : Bool) : State := { s with giel := v }
def State.setPower (s : State) (timeOut powerDown : Bool) : State :=
  { s with toBit := timeOut, pdBit := powerDown }
def State.setAsleep (s : State) (v : Bool) : State := { s with asleep := v }
def State.setHeld (s : State) (high low : Bool) : State := { s with heldHigh := high, heldLow := low }
def State.setFreeCtr (s : State) (v : Nat) : State := { s with freeCtr := v }

/-- FSR[i] (10_state.md R38). -/
def State.fsr (s : State) : FsrIdx → BitVec 12
  | .f0 => s.fsr0
  | .f1 => s.fsr1
  | .f2 => s.fsr2

def State.setFsr (s : State) (i : FsrIdx) (v : BitVec 12) : State :=
  match i with
  | .f0 => { s with fsr0 := v }
  | .f1 => { s with fsr1 := v }
  | .f2 => { s with fsr2 := v }

end Sys2Proof.Machine
end

