-- ==== Sys2Proof/Machine/Flags.lean ====
section
/-! DEFINITION. STATUS as a byte and the arithmetic that sets flags (10_state.md R31, R36, R37; 42_control.md R282). -/

namespace Sys2Proof.Machine

/-- STATUS as it is read: `{000, N, OV, Z, DC, C}` (10_state.md R31, 20_memory.md R104). -/
def statusByte (f : Flags) : Byte := 0#3 ++ bit f.n ++ bit f.ov ++ bit f.z ++ bit f.dc ++ bit f.c

/-- `{N, OV, Z, DC, C} <- v[4:0]` (20_memory.md R108). -/
def flagsOfByte (v : Byte) : Flags :=
  ⟨v.getLsbD 4, v.getLsbD 3, v.getLsbD 2, v.getLsbD 1, v.getLsbD 0⟩

/-- `ADD8(x, y, c)` of 10_state.md R36. -/
def add8 (x y : Byte) (c : Bool) : Byte × Flags :=
  let s9 : BitVec 9 := x.zeroExtend 9 + y.zeroExtend 9 + (bit c).zeroExtend 9
  let s5 : BitVec 5 := (x.extractLsb' 0 4).zeroExtend 5 + (y.extractLsb' 0 4).zeroExtend 5 + (bit c).zeroExtend 5
  let r : Byte := s9.extractLsb' 0 8
  (r, { c := s9.getLsbD 8
        dc := s5.getLsbD 4
        z := r == 0
        ov := x.msb == y.msb && r.msb != x.msb
        n := r.msb })

/-- `SetNZ(v)` of 10_state.md R37. -/
def setNZ (v : Byte) (f : Flags) : Flags := { f with n := v.msb, z := v == 0 }

/-- DAW's WREG and C, variant `propagate` (42_control.md R282): the low digit's carry runs into the high digit. -/
def dawPropagate (w : Byte) (c dc : Bool) : Byte × Bool :=
  let t0 : BitVec 10 := w.zeroExtend 10
  let t1 := if 9#4 < w.extractLsb' 0 4 || dc then t0 + 0x06 else t0
  let t2 := if 9#4 < t1.extractLsb' 4 4 || c then t1 + 0x60 else t1
  (t2.extractLsb' 0 8, c || decide (0x100#10 ≤ t2))

/-- One digit of DAW's variant `isolated`, with its carry in bit 4. -/
def dawDigit (x : BitVec 4) (adjust : Bool) : BitVec 5 :=
  if 9#4 < x || adjust then x.zeroExtend 5 + 6 else x.zeroExtend 5

/-- DAW's WREG and C, variant `isolated` (42_control.md R282): each digit on its own. -/
def dawIsolated (w : Byte) (c dc : Bool) : Byte × Bool :=
  let lo := dawDigit (w.extractLsb' 0 4) dc
  let hi := dawDigit (w.extractLsb' 4 4) c
  (hi.extractLsb' 0 4 ++ lo.extractLsb' 0 4, c || hi.getLsbD 4)

/-- DAW's WREG and C under P_DAW_VARIANT (D13). -/
def daw (variant : DawVariant) (w : Byte) (c dc : Bool) : Byte × Bool :=
  match variant with
  | .propagate => dawPropagate w c dc
  | .isolated => dawIsolated w c dc

end Sys2Proof.Machine
end

