-- ==== Sys2Proof/Machine/Ops.lean ====
section
/-! DEFINITION. The named operations over memory, registers, the return stack and the shadows; taking an interrupt and
returning from one; the device resets (10_state.md R42 to R54, R70; 20_memory.md R91 to R108; 60_exceptions.md R360,
R361, R364). -/

namespace Sys2Proof.Machine

/-- A result, or why the machine stops. -/
abbrev Res (α : Type) := Host.Outcome α Fault Refusal

/-- Go on with the result; a stop stays the stop it is. -/
def andThen {α β : Type} (x : Res α) (k : α → Res β) : Res β :=
  match x with
  | .next a => k a
  | .fault e => .fault e
  | .refused e => .refused e

/-! Memories -/

/-- The byte memories of the machine. -/
inductive Space where
  /-- Data memory, 10_state.md R35. -/
  | data
  /-- Program memory, 20_memory.md R91. -/
  | program
  /-- The addresses behind P_PERIPH, 20_memory.md R106. -/
  | periph
  deriving DecidableEq, Repr

/-- What an address that is not listed reads as. Data memory: 0x00 (R70 has `x`; DESIGN CHOICE, log 3). Program memory:
0xFF, for erased program memory reads 0xFFFF (42_control.md R285, log 4). Behind P_PERIPH: 0x00, as R106 says of an
unimplemented location (log 8). -/
def unlisted : Space → Byte
  | .data => 0x00
  | .program => 0xFF
  | .periph => 0x00

/-- The byte at an address. -/
def Memory.read (sp : Space) (m : Memory) (a : Nat) : Byte :=
  match m with
  | [] => unlisted sp
  | c :: m => if c.1 = a then c.2 else Memory.read sp m a

/-- Put one byte in front of the bytes above it, unless it is what an unlisted address reads as. -/
def Memory.put (sp : Space) (a : Nat) (v : Byte) (m : Memory) : Memory := if v = unlisted sp then m else (a, v) :: m

/-- Store one byte, keeping the canonical form. -/
def Memory.write (sp : Space) (m : Memory) (a : Nat) (v : Byte) : Memory :=
  match m with
  | [] => Memory.put sp a v []
  | c :: m =>
    if a < c.1 then Memory.put sp a v (c :: m)
    else if a = c.1 then Memory.put sp a v m
    else c :: Memory.write sp m a v

/-- The canonical form: addresses strictly rising from `lo` on, no listed byte equal to what an unlisted one reads as. -/
def Memory.wfFrom (sp : Space) (lo : Nat) (m : Memory) : Bool :=
  match m with
  | [] => true
  | c :: m => decide (lo ≤ c.1) && c.2 != unlisted sp && Memory.wfFrom sp (c.1 + 1) m

/-- The canonical form. -/
def Memory.wf (sp : Space) (m : Memory) : Bool := Memory.wfFrom sp 0 m

/-- Store some bytes, the first first. -/
def Memory.writeAll (sp : Space) (m : Memory) (cells : List Host.Cell) : Memory :=
  cells.foldl (fun m c => Memory.write sp m c.1 c.2) m

/-- `DM[t]`. -/
def State.dmByte (s : State) (t : DataAddr) : Byte := Memory.read .data s.dm t.toNat

/-- `PMRead(addr)` (20_memory.md R92); outside P_PM_IMPL the zeros of R91. -/
def State.pmByte (s : State) (a : ProgAddr) : Byte := if pmOk s.cfg a then Memory.read .program s.pm a.toNat else 0

/-! Fetch -/

/-- `FetchWord(addr)` (20_memory.md R93), refused outside P_PM_IMPL (10_state.md R41, D17); log 26. -/
def fetchWord (addr : ProgAddr) (s : State) : Res Word :=
  if (pmOk s.cfg addr && pmOk s.cfg (addr + 1)) || s.cfg.edges == .hardware then
    .next (wordOfBytes (s.pmByte addr) (s.pmByte (addr + 1)))
  else .refused (.fetchOutsideProgramMemory addr)

/-- What an unassigned first word does (30_encoding.md R160, D4): `none` stands for "executes as NOP". -/
def unassignedWord (w : Word) (s : State) : Res (Option Instr) :=
  match s.cfg.unassigned with
  | .refuse => .refused (.unassignedOpcode s.pc w)
  | .nop => .next none

/-- Fetch and decode the instruction at pc (30_encoding.md R162) in the order of 60_exceptions.md R353: first word,
decode, second word, its check (R151). -/
def fetchInstr (s : State) : Res (Option Instr) :=
  andThen (fetchWord s.pc s) fun w1 =>
    if !isAssigned w1 then unassignedWord w1 s
    else
      andThen (if isTwoWordFirst w1 then fetchWord (s.pc + 2) s else .next 0#16) fun w2 =>
        if isTwoWordFirst w1 && !secondWordOk w1 w2 && s.cfg.edges == .stop then
          .refused (.malformedSecondWord s.pc w2)
        else
          match decodeWords w1 w2 with
          | .ok i => .next (some i)
          | .error _ => unassignedWord w1 s

/-- `Skip()` (30_encoding.md R152): the pc after the instruction that follows this one. Log 16. -/
def skipPc (s : State) : Res ProgAddr :=
  andThen (fetchWord (s.pc + 2) s) fun w =>
    if !isAssigned w then .refused (.unassignedOpcode (s.pc + 2) w)
    else .next (if isTwoWordFirst w then s.pc + 6 else s.pc + 4)

/-! The return stack -/

/-- `STACK[i]` for `i` in 1..31; 0 for `i = 0`, where there is no storage (10_state.md R44, R48). -/
def State.entry (s : State) (i : BitVec 5) : BitVec 21 :=
  if i = 0 then 0 else s.stack[i.toNat - 1]?.getD 0

/-- `STACK[i] <- v` for `i` in 1..31. -/
def State.setEntry (s : State) (i : BitVec 5) (v : BitVec 21) : State :=
  if i = 0 then s else s.setStack (s.stack.setIfInBounds (i.toNat - 1) v)

/-! Resets -/

/-- Bit `b` of the free value `n`. -/
def freeBit (n b : Nat) : Bool := (Config.freeByte n).getLsbD b

/-- Column "RESET instruction" of 10_state.md R70. Its `x` entries are free values (log 6); its `u` entries stay. What
R70 has no row for stays too: the holding registers (DESIGN CHOICE, log 2) and the bytes behind P_PERIPH, `periphIn` and
`periphOut` (DESIGN CHOICE, log 8). -/
def resetColumn (s : State) : State :=
  { s with
    pc := 0
    sp := 0
    stkful := freeBit s.freeCtr 7
    stkunf := freeBit s.freeCtr 6
    pclatu := 0
    pclath := 0
    tblptr := 0
    tablat := 0
    gieh := false
    giel := false
    intcon50 := s.intcon50 &&& 1
    fsr0 := s.fsr0 &&& 0x0FF
    fsr1 := s.fsr1 &&& 0x0FF
    fsr2 := s.fsr2 &&& 0x0FF
    bsr := 0
    flags := flagsOfByte (Config.freeByte s.freeCtr)
    ws := Config.freeByte (s.freeCtr + 1)
    statuss := Config.freeByte (s.freeCtr + 2)
    bsrs := Config.freeByte (s.freeCtr + 3)
    ipen := false
    ri := false
    asleep := false
    heldHigh := false
    heldLow := false
    freeCtr := s.freeCtr + 4 }

/-- A watchdog time-out while running: the reset column, with `TO = 0` (60_exceptions.md R372, 70_reset_and_hazards.md
R390). -/
def watchdogReset (s : State) : State := (resetColumn s).setPower false s.pdBit

/-- A reset from outside (70_reset_and_hazards.md R390, R391). Log 15. -/
def externalReset (kind : ExtReset) (s : State) : State :=
  match kind with
  | .masterClear => resetColumn s
  | .brownOut => { resetColumn s with bor := false }

/-- A push filled the stack and P_STVREN is set: "the stack resets leave STKFUL or STKUNF set" (70_reset_and_hazards.md
R390, R392). -/
def stackFullReset (s : State) : State := (resetColumn s).setStkful true

/-- A pop found the stack empty and P_STVREN is set (70_reset_and_hazards.md R390, R392). -/
def stackUnderflowReset (s : State) : State := (resetColumn s).setStkunf true

/-! Push and pop -/

/-- The state under `edges = hardware` after a push that found the stack full: the top entry overwritten or the push
discarded, as a free bit says (10_state.md R46), SP as it was, STKFUL set. DESIGN CHOICE, log 11. -/
def pushOnFull (v : BitVec 21) (s : State) : State :=
  ((if freeBit s.freeCtr 0 then s.setEntry s.sp v else s).setStkful true).setFreeCtr (s.freeCtr + 1)

/-- `Push(v)` (10_state.md R46, whose 29, 30 and 31 are P_STACK_DEPTH = 31 less two, one and none), then the rest `k` of
the instruction. With `edges = hardware` a push onto the full stack resets the device when P_STVREN is set, as a push that
fills it does: R46 and R351 do not say what P_STVREN does there (DESIGN CHOICE, log 11). -/
def pushThen (v : BitVec 21) (s : State) (k : State → Res State) : Res State :=
  if s.sp.toNat + 1 < s.cfg.stackDepth.val then k ((s.setSp (s.sp + 1)).setEntry (s.sp + 1) v)
  else if s.sp.toNat + 1 = s.cfg.stackDepth.val then
    let s1 := ((s.setSp (s.sp + 1)).setEntry (s.sp + 1) v).setStkful true
    if s.cfg.stvren then
      match s.cfg.edges with
      | .stop => .fault .stackFullReset
      | .hardware => .next (stackFullReset s1)
    else k s1
  else
    match s.cfg.edges with
    | .stop => .fault .stackOverflow
    | .hardware =>
      if s.cfg.stvren then .next (stackFullReset (pushOnFull v s)) else k (pushOnFull v s)

/-- The value a pop takes: `{v[20:1], 0}` (10_state.md R47). -/
def State.popValue (s : State) : ProgAddr := (s.entry s.sp).extractLsb' 1 20 ++ 0#1

/-- `Pop()` (10_state.md R47), then the rest `k` of the instruction with the value. -/
def popThen (s : State) (k : ProgAddr → State → Res State) : Res State :=
  if s.sp = 0 then
    match s.cfg.edges with
    | .stop => .fault .stackUnderflow
    | .hardware =>
      if s.cfg.stvren then .next (stackUnderflowReset s) else k 0 (s.setStkunf true)
  else k s.popValue (s.setSp (s.sp - 1))

/-! The fast register stack -/

/-- `Save()` (10_state.md R50). Log 22. -/
def save (s : State) : State :=
  { s with ws := s.w, statuss := statusByte s.flags, bsrs := s.bsr.zeroExtend 8 }

/-- `Restore()` (10_state.md R50). -/
def restore (s : State) : State :=
  { s with w := s.ws, flags := flagsOfByte s.statuss, bsr := s.bsrs.extractLsb' 0 4 }

/-! Data memory -/

/-- TOSU, TOSH, TOSL, when written, become this top entry (10_state.md R48). -/
def tosWith (r : Sfr) (e : BitVec 21) (v : Byte) : BitVec 21 :=
  match r with
  | .tosu => v.extractLsb' 0 5 ++ e.extractLsb' 0 16
  | .tosh => e.extractLsb' 16 5 ++ v ++ e.extractLsb' 0 8
  | _ => e.extractLsb' 8 13 ++ v

/-- The value a core register reads as (20_memory.md R104, 10_state.md R61). -/
def sfrRead (r : Sfr) (s : State) : Byte :=
  match r with
  | .tosu => 0#3 ++ (s.entry s.sp).extractLsb' 16 5
  | .tosh => (s.entry s.sp).extractLsb' 8 8
  | .tosl => (s.entry s.sp).extractLsb' 0 8
  | .stkptr => bit s.stkful ++ bit s.stkunf ++ 0#1 ++ s.sp
  | .pclatu => 0#3 ++ s.pclatu
  | .pclath => s.pclath
  | .pcl => (s.pc + 2).extractLsb' 0 8
  | .tblptru => 0#2 ++ s.tblptr.extractLsb' 16 6
  | .tblptrh => s.tblptr.extractLsb' 8 8
  | .tblptrl => s.tblptr.extractLsb' 0 8
  | .tablat => s.tablat
  | .prodh => s.prodh
  | .prodl => s.prodl
  | .intcon => bit s.gieh ++ bit s.giel ++ s.intcon50
  | .fsrh i => 0#4 ++ (s.fsr i).extractLsb' 8 4
  | .fsrl i => (s.fsr i).extractLsb' 0 8
  | .wreg => s.w
  | .bsr => 0#4 ++ s.bsr
  | .status => statusByte s.flags
  | .rcon => bit s.ipen ++ bit s.lwrt ++ 0#1 ++ bit s.ri ++ bit s.toBit ++ bit s.pdBit ++ bit s.por ++ bit s.bor

/-- 10_state.md R42 (b): a read of PCL by an instruction that does not write PCL loads the latches from `pc + 2`. -/
def loadLatches (s : State) : State :=
  s.setLatches ((s.pc + 2).extractLsb' 16 5) ((s.pc + 2).extractLsb' 8 8)

/-- A byte read from data memory, and the state after the read. -/
structure Loaded where
  val : Byte
  st : State

/-- `MemRead(t, 1)` (20_memory.md R104, R106, R107), of a resolved address; `writesBack` says that the instruction also
writes `t` (10_state.md R42 (b)). -/
def memRead (t : DataAddr) (writesBack : Bool) (s : State) : Res Loaded :=
  match placeOf s.cfg t with
  | .gpr => .next ⟨s.dmByte t, s⟩
  | .virt => .next ⟨0, s⟩
  | .core .pcl =>
    match s.cfg.pclAccess with
    | .refuse => .refused (.pclAccessRefused t)
    | .asR42 => .next ⟨sfrRead .pcl s, if writesBack then s else loadLatches s⟩
  | .core r => .next ⟨sfrRead r s, s⟩
  | .outside =>
    match s.cfg.periph with
    | .refuse => .refused (.dataAddressNotModelled t)
    | .ports => .next ⟨Memory.read .periph s.periphIn t.toNat, s⟩

/-- STKPTR as a destination (10_state.md R45): SP is written, the two flags are clear-only. -/
def writeStkptr (v : Byte) (s : State) : State :=
  ((s.setSp (v.extractLsb' 0 5)).setStkful (s.stkful && v.getLsbD 7)).setStkunf (s.stkunf && v.getLsbD 6)

/-- RCON as a destination (20_memory.md R105): LWRT can only be set, TO and PD are read-only. -/
def writeRcon (v : Byte) (s : State) : State :=
  { s with
    ipen := v.getLsbD 7
    lwrt := s.lwrt || v.getLsbD 6
    ri := v.getLsbD 4
    por := v.getLsbD 1
    bor := v.getLsbD 0 }

/-- INTCON as a destination (20_memory.md R105). -/
def writeIntcon (v : Byte) (s : State) : State :=
  { s with gieh := v.getLsbD 7, giel := v.getLsbD 6, intcon50 := v.extractLsb' 0 6 }

/-- Where a write of `v` to PCL goes (10_state.md R42 (c)). -/
def pclTarget (s : State) (v : Byte) : ProgAddr := s.pclatu ++ s.pclath ++ v.extractLsb' 1 7 ++ 0#1

/-- A write to a core register other than TOSU, TOSH, TOSL and PCL (20_memory.md R105, R108); `masked` says that the
instruction's "Flags written" set is not empty. -/
def sfrWrite (r : Sfr) (v : Byte) (masked : Bool) (s : State) : State :=
  match r with
  | .tosu | .tosh | .tosl => s.setEntry s.sp (tosWith r (s.entry s.sp) v)
  | .stkptr => writeStkptr v s
  | .pclatu => s.setLatches (v.extractLsb' 0 5) s.pclath
  | .pclath => s.setLatches s.pclatu v
  | .pcl => s.setPc (pclTarget s v)
  | .tblptru => s.setTblptr (v.extractLsb' 0 6 ++ s.tblptr.extractLsb' 0 16)
  | .tblptrh => s.setTblptr (s.tblptr.extractLsb' 16 6 ++ v ++ s.tblptr.extractLsb' 0 8)
  | .tblptrl => s.setTblptr (s.tblptr.extractLsb' 8 14 ++ v)
  | .tablat => s.setTablat v
  | .prodh => { s with prodh := v }
  | .prodl => { s with prodl := v }
  | .intcon => writeIntcon v s
  | .fsrh i => s.setFsr i (v.extractLsb' 0 4 ++ (s.fsr i).extractLsb' 0 8)
  | .fsrl i => s.setFsr i ((s.fsr i).extractLsb' 8 4 ++ v)
  | .wreg => s.setW v
  | .bsr => s.setBsr (v.extractLsb' 0 4)
  | .status => if masked then s else s.setFlags (flagsOfByte v)
  | .rcon => writeRcon v s

/-- The top-of-stack registers. -/
def isTos : Sfr → Bool
  | .tosu | .tosh | .tosl => true
  | .stkptr | .pclatu | .pclath | .pcl | .tblptru | .tblptrh | .tblptrl | .tablat | .prodh | .prodl | .intcon
  | .fsrh _ | .fsrl _ | .wreg | .bsr | .status | .rcon => false

/-- `MemWrite(t, 1, v)` (20_memory.md R105 to R108), of a resolved address. -/
def memWrite (t : DataAddr) (v : Byte) (masked : Bool) (s : State) : Res State :=
  match placeOf s.cfg t with
  | .gpr => .next (s.setDm (Memory.write .data s.dm t.toNat v))
  | .virt => .next s
  | .core r =>
    if r = .pcl ∧ s.cfg.pclAccess = .refuse then .refused (.pclAccessRefused t)
    else if isTos r && s.sp == 0 then .refused .tosAccessAtEmptyStack
    else .next (sfrWrite r v masked s)
  | .outside =>
    match s.cfg.periph with
    | .refuse => .refused (.dataAddressNotModelled t)
    | .ports => .next { s with periphOut := Memory.write .periph s.periphOut t.toNat v }

/-! Interrupts -/

/-- The two interrupt levels. -/
inductive Level where
  | high
  | low
  deriving DecidableEq, Repr

/-- 60_exceptions.md R361: whether requests are taken, and at which level. -/
def irqLevel (irqHigh irqLow : Bool) (s : State) : Option Level :=
  if s.ipen then
    if irqHigh && s.gieh then some .high
    else if irqLow && s.gieh && s.giel then some .low
    else none
  else if (irqHigh || irqLow) && s.gieh then some .high
  else none

/-- 60_exceptions.md R365. -/
def vector (ipen : Bool) (level : Level) : ProgAddr :=
  if ipen && level == .low then 0x000018#21 else 0x000008#21

/-- What interrupt entry does after `Push(pc)` (60_exceptions.md R360). -/
def afterEntryPush (level : Level) (s : State) : Res State :=
  let s1 := save s
  let s2 := if s.ipen && level == .low then s1.setGiel false else s1.setGieh false
  .next ((s2.setPc (vector s.ipen level)).setAsleep false)

/-- Taking an interrupt (60_exceptions.md R360): `Push(pc)`, `Save()`, the level's enable bit cleared, the vector. -/
def enterInterrupt (level : Level) (s : State) : Res State := pushThen s.pc s (afterEntryPush level)

/-- The enable bit RETFIE sets (42_control.md R290, D18). -/
def reenable (s : State) : State :=
  if s.ipen && s.gieh then s.setGiel true else s.setGieh true

/-- Returning from an interrupt (60_exceptions.md R364, 42_control.md R290). -/
def returnFromInterrupt (fast : Bool) (s : State) : Res State :=
  popThen s fun p s1 =>
    let s2 := reenable (s1.setPc p)
    .next (if fast then restore s2 else s2)

end Sys2Proof.Machine
end

