-- ==== Sys2Proof/Machine/Operands.lean ====
section
/-! DEFINITION. The operand forms: address formation, indirect addressing, reads and writes of `f`, and the shapes the
families share (20_memory.md R100 to R107; 40_byte_oriented.md R200; 41_bit_oriented.md R260; 42_control.md R270;
44_table.md R330 to R335). -/

namespace Sys2Proof.Machine

/-- `EA(f, a)` (20_memory.md R100). -/
def ea (f : Byte) (a : RamSel) (s : State) : DataAddr :=
  match a with
  | .access => if f.toNat < s.cfg.accessSplit.toNat then 0x0#4 ++ f else 0xF#4 ++ f
  | .banked => s.bsr ++ f

/-- Where an indirect form points (20_memory.md R102). -/
def indirectTarget (form : Indirect) (fsr : BitVec 12) (w : Byte) : DataAddr :=
  match form with
  | .indf | .postinc | .postdec => fsr
  | .preinc => fsr + 1
  | .plusw => fsr + w.signExtend 12

/-- The FSR after an indirect access (20_memory.md R102). -/
def indirectFsr (form : Indirect) (fsr : BitVec 12) : BitVec 12 :=
  match form with
  | .indf | .plusw => fsr
  | .postinc | .preinc => fsr + 1
  | .postdec => fsr - 1

/-- The form changes its FSR. -/
def modifiesFsr : Indirect → Bool
  | .indf | .plusw => false
  | .postinc | .postdec | .preinc => true

/-- 20_memory.md R107: the targets an indirect access has no dependable answer for. -/
def targetUndefined (cfg : Config) (q : Virt) (t : DataAddr) : Bool :=
  match regAt cfg t with
  | some (.virt q') => q'.form != .indf
  | some (.core r) => modifiesFsr q.form && (r == .fsrl q.idx || r == .fsrh q.idx)
  | none => false

/-- A resolved address, and the state after the FSR's modification. -/
structure Resolved where
  addr : DataAddr
  st : State

/-- `Resolve(ea)` (20_memory.md R102, R107). -/
def resolve (ea : DataAddr) (s : State) : Res Resolved :=
  match virtAt s.cfg ea with
  | none => .next ⟨ea, s⟩
  | some q =>
    let t := indirectTarget q.form (s.fsr q.idx) s.w
    if targetUndefined s.cfg q t then .refused (.indirectTargetUndefined ea t)
    else .next ⟨t, s.setFsr q.idx (indirectFsr q.form (s.fsr q.idx))⟩

/-- An operand read: its resolved address, its value, the state after the read. -/
structure Operand where
  addr : DataAddr
  val : Byte
  st : State

/-- The operand at a data address: `Resolve`, then `MemRead`. -/
def operandAt (ea : DataAddr) (writesBack : Bool) (s : State) : Res Operand :=
  andThen (resolve ea s) fun r =>
    andThen (memRead r.addr writesBack r.st) fun v => .next ⟨r.addr, v.val, v.st⟩

/-- `RdF(f, a)` (20_memory.md R103). -/
def readF (f : Byte) (a : RamSel) (writesBack : Bool) (s : State) : Res Operand :=
  operandAt (ea f a s) writesBack s

/-- `Dest(d, t, r)` (40_byte_oriented.md R200). -/
def writeDest (d : Dest) (t : DataAddr) (r : Byte) (masked : Bool) (s : State) : Res State :=
  match d with
  | .w => .next (s.setW r)
  | .f => memWrite t r masked s

/-- The step a one-word instruction's pc takes (10_state.md R41). -/
def State.advance (s : State) : State := s.setPc (s.pc + 2)

/-- What a byte-oriented instruction computes from `f`'s value, WREG and the flags before it: its result and the flags
after it. -/
abbrev ByteFn := Byte → Byte → Flags → Byte × Flags

/-- The shape of 40_byte_oriented.md R200: read, compute, flags, destination; a destination PCL is a jump, so the pc
advances before the write. -/
def byteD (f : Byte) (d : Dest) (a : RamSel) (masked : Bool) (fn : ByteFn) (s : State) : Res State :=
  andThen (readF f a (d == .f) s) fun o =>
    let y := fn o.val s.w s.flags
    writeDest d o.addr y.1 masked (o.st.setFlags y.2).advance

/-- The shape of the instructions that only write `f` (20_memory.md R103, D31). -/
def writeOnly (f : Byte) (a : RamSel) (v : Byte) (masked : Bool) (fl : Flags) (s : State) : Res State :=
  andThen (resolve (ea f a s) s) fun r => memWrite r.addr v masked (r.st.setFlags fl).advance

/-- The shape of the compares and bit tests: read, then skip or go on. -/
def testSkip (f : Byte) (a : RamSel) (cond : Byte → Bool) (s : State) : Res State :=
  andThen (readF f a false s) fun o =>
    if cond o.val then andThen (skipPc s) fun p => .next (o.st.setPc p)
    else .next o.st.advance

/-- The shape of the counting skips (40_byte_oriented.md R210): the look-ahead comes before the write (60_exceptions.md
R353) and a skip's pc is the last word on the pc. Log 17. -/
def countSkip (f : Byte) (d : Dest) (a : RamSel) (fn : Byte → Byte) (cond : Byte → Bool) (s : State) : Res State :=
  andThen (readF f a (d == .f) s) fun o =>
    if cond (fn o.val) then
      andThen (skipPc s) fun p =>
        andThen (writeDest d o.addr (fn o.val) false o.st) fun s1 => .next (s1.setPc p)
    else writeDest d o.addr (fn o.val) false o.st.advance

/-- The shape of the bit-oriented writes (41_bit_oriented.md R260): the whole byte is written back. -/
def bitWrite (f : Byte) (a : RamSel) (fn : Byte → Byte) (s : State) : Res State :=
  byteD f .f a false (fun v _ fl => (fn v, fl)) s

/-- `1 << b`. -/
def bitMask (b : BitVec 3) : Byte := 1#8 <<< b.toNat

/-- The shape of the literal instructions whose result goes to WREG. -/
def literalW (y : Byte × Flags) (s : State) : Res State :=
  .next ((s.setFlags y.2).setW y.1).advance

/-- `RelTarget8(n)` (42_control.md R270). -/
def relTarget8 (pc : ProgAddr) (n : BitVec 8) : ProgAddr := pc + 2 + 2 * n.signExtend 21

/-- `RelTarget11(n)` (42_control.md R270). -/
def relTarget11 (pc : ProgAddr) (n : BitVec 11) : ProgAddr := pc + 2 + 2 * n.signExtend 21

/-- The shape of the conditional branches. -/
def branchIf (cond : Bool) (n : BitVec 8) (s : State) : Res State :=
  .next (if cond then s.setPc (relTarget8 s.pc n) else s.advance)

/-- The byte target of CALL and GOTO (30_encoding.md R155). -/
def wordTarget (k : BitVec 20) : ProgAddr := k ++ 0#1

/-- The FSR that LFSR's `ff` selects (30_encoding.md R155). -/
def fsrOfField (ff : BitVec 2) : Option FsrIdx :=
  match ff.toNat with
  | 0 => some .f0
  | 1 => some .f1
  | 2 => some .f2
  | _ => none

/-- MOVFF's destinations that 40_byte_oriented.md R217 refuses (D19). -/
def movffForbidden (cfg : Config) (td : DataAddr) : Bool :=
  match sfrAt cfg td with
  | some r => r == .pcl || isTos r
  | none => false

/-- A table read through TBLPTR (44_table.md R330, R331). -/
def tableRead (s : State) : Res State :=
  let addr := s.tblptr.extractLsb' 0 21
  if s.tblptr.getLsbD 21 then .refused (.tableAccessConfigSpace s.tblptr)
  else if pmOk s.cfg addr || s.cfg.edges == .hardware then .next (s.setTablat (s.pmByte addr))
  else .refused (.tableReadOutsideProgramMemory addr)

/-- A table write through TBLPTR (44_table.md R335, D7): the holding register that TBLPTR[0] selects. Log 18, log 25. -/
def tableWrite (s : State) : Res State :=
  if s.tblptr.getLsbD 21 then .refused (.tableAccessConfigSpace s.tblptr)
  else if s.lwrt then .refused (.tableWriteNotModelled s.tblptr)
  else .next (if s.tblptr.getLsbD 0 then { s with hold1 := s.tablat } else { s with hold0 := s.tablat })

end Sys2Proof.Machine
end

