-- ==== Sys2Proof/Machine/BitOps.lean ====
section
/-! DEFINITION. The meanings of the bit-oriented file register operations (41_bit_oriented.md). -/

namespace Sys2Proof.Machine

/-- R261. -/
def execBcf (f : Byte) (b : BitVec 3) (a : RamSel) (s : State) : Res State :=
  bitWrite f a (fun v => v &&& ~~~(bitMask b)) s

/-- R262. -/
def execBsf (f : Byte) (b : BitVec 3) (a : RamSel) (s : State) : Res State :=
  bitWrite f a (fun v => v ||| bitMask b) s

/-- R263. -/
def execBtfsc (f : Byte) (b : BitVec 3) (a : RamSel) (s : State) : Res State :=
  testSkip f a (fun v => !v.getLsbD b.toNat) s

/-- R264. -/
def execBtfss (f : Byte) (b : BitVec 3) (a : RamSel) (s : State) : Res State :=
  testSkip f a (fun v => v.getLsbD b.toNat) s

/-- R265. -/
def execBtg (f : Byte) (b : BitVec 3) (a : RamSel) (s : State) : Res State :=
  bitWrite f a (fun v => v ^^^ bitMask b) s

end Sys2Proof.Machine
end

