-- ==== Sys2Proof/Machine/ByteOps.lean ====
section
/-! DEFINITION. The meanings of the byte-oriented file register operations (40_byte_oriented.md). -/

namespace Sys2Proof.Machine

/-- The instruction's status set is empty under P_FLAGS_VARIANT = source_literal (D14). -/
def literalFlags (s : State) : Bool := s.cfg.flagsVariant == .sourceLiteral

/-- R201. -/
def execAddwf (f : Byte) (d : Dest) (a : RamSel) (s : State) : Res State :=
  byteD f d a true (fun v w _ => add8 w v false) s

/-- R202. -/
def execAddwfc (f : Byte) (d : Dest) (a : RamSel) (s : State) : Res State :=
  byteD f d a true (fun v w fl => add8 w v fl.c) s

/-- R203. -/
def execAndwf (f : Byte) (d : Dest) (a : RamSel) (s : State) : Res State :=
  byteD f d a true (fun v w fl => (w &&& v, setNZ (w &&& v) fl)) s

/-- R204. -/
def execClrf (f : Byte) (a : RamSel) (s : State) : Res State :=
  writeOnly f a 0x00#8 true { s.flags with z := true } s

/-- R205. -/
def execComf (f : Byte) (d : Dest) (a : RamSel) (s : State) : Res State :=
  byteD f d a true (fun v _ fl => (~~~v, setNZ (~~~v) fl)) s

/-- R206. -/
def execCpfseq (f : Byte) (a : RamSel) (s : State) : Res State :=
  testSkip f a (fun v => v == s.w) s

/-- R207. -/
def execCpfsgt (f : Byte) (a : RamSel) (s : State) : Res State :=
  testSkip f a (fun v => s.w.ult v) s

/-- R208. -/
def execCpfslt (f : Byte) (a : RamSel) (s : State) : Res State :=
  testSkip f a (fun v => v.ult s.w) s

/-- R209. -/
def execDecf (f : Byte) (d : Dest) (a : RamSel) (s : State) : Res State :=
  byteD f d a true (fun v _ _ => add8 v 0xFF#8 false) s

/-- R210. -/
def execDecfsz (f : Byte) (d : Dest) (a : RamSel) (s : State) : Res State :=
  countSkip f d a (fun v => v - 1) (fun r => r == 0) s

/-- R211. -/
def execDcfsnz (f : Byte) (d : Dest) (a : RamSel) (s : State) : Res State :=
  countSkip f d a (fun v => v - 1) (fun r => r != 0) s

/-- R212. -/
def execIncf (f : Byte) (d : Dest) (a : RamSel) (s : State) : Res State :=
  byteD f d a true (fun v _ _ => add8 v 0x01#8 false) s

/-- R213. -/
def execIncfsz (f : Byte) (d : Dest) (a : RamSel) (s : State) : Res State :=
  countSkip f d a (fun v => v + 1) (fun r => r == 0) s

/-- R214. -/
def execInfsnz (f : Byte) (d : Dest) (a : RamSel) (s : State) : Res State :=
  countSkip f d a (fun v => v + 1) (fun r => r != 0) s

/-- R215; under `source_literal` no flag, and STATUS as the destination is written as data (R108, log 23). -/
def execIorwf (f : Byte) (d : Dest) (a : RamSel) (s : State) : Res State :=
  byteD f d a (!literalFlags s)
    (fun v w fl => (w ||| v, if literalFlags s then fl else setNZ (w ||| v) fl)) s

/-- R216. -/
def execMovf (f : Byte) (d : Dest) (a : RamSel) (s : State) : Res State :=
  byteD f d a true (fun v _ fl => (v, setNZ v fl)) s

/-- R217: the source first, then the destination (D31). Where two refusals of the destination apply (a top-of-stack
register at SP = 0, R48; PCL in the cautious configuration, D21) R353 gives no order, and the model reports
`forbiddenMovffDestination` (DESIGN CHOICE, log 31). -/
def execMovff (fs fd : DataAddr) (s : State) : Res State :=
  andThen (operandAt fs false s) fun o =>
    andThen (resolve fd o.st) fun r =>
      if movffForbidden s.cfg r.addr then .refused (.forbiddenMovffDestination r.addr)
      else memWrite r.addr o.val false (r.st.setPc (s.pc + 4))

/-- R218. -/
def execMovwf (f : Byte) (a : RamSel) (s : State) : Res State :=
  writeOnly f a s.w false s.flags s

/-- R219. -/
def execMulwf (f : Byte) (a : RamSel) (s : State) : Res State :=
  andThen (readF f a false s) fun o =>
    .next (o.st.setProd (s.w.zeroExtend 16 * o.val.zeroExtend 16)).advance

/-- R220; under `source_literal` no flag, and STATUS as the destination is written as data (R108, log 23). -/
def execNegf (f : Byte) (a : RamSel) (s : State) : Res State :=
  byteD f .f a (!literalFlags s)
    (fun v _ fl => ((add8 0x00#8 (~~~v) true).1, if literalFlags s then fl else (add8 0x00#8 (~~~v) true).2)) s

/-- The flags of R221: C, Z, N; under `source_literal` DC and OV besides, with free values (U18, log 6). -/
def rlcfFlags (s : State) (v r : Byte) (fl : Flags) : Flags :=
  let y := { setNZ r fl with c := v.msb }
  if literalFlags s then { y with dc := freeBit s.freeCtr 0, ov := freeBit s.freeCtr 1 } else y

/-- The counter of free values after R221. -/
def rlcfCounted (s : State) : State := if literalFlags s then s.setFreeCtr (s.freeCtr + 1) else s

/-- R221. -/
def execRlcf (f : Byte) (d : Dest) (a : RamSel) (s : State) : Res State :=
  byteD f d a true
    (fun v _ fl =>
      let r := v.extractLsb' 0 7 ++ bit fl.c
      (r, rlcfFlags s v r fl)) (rlcfCounted s)

/-- R222. -/
def execRlncf (f : Byte) (d : Dest) (a : RamSel) (s : State) : Res State :=
  byteD f d a true
    (fun v _ fl =>
      let r : Byte := v.extractLsb' 0 7 ++ v.extractLsb' 7 1
      (r, setNZ r fl)) s

/-- R223. -/
def execRrcf (f : Byte) (d : Dest) (a : RamSel) (s : State) : Res State :=
  byteD f d a true
    (fun v _ fl =>
      let r : Byte := bit fl.c ++ v.extractLsb' 1 7
      (r, { setNZ r fl with c := v.getLsbD 0 })) s

/-- R224. -/
def execRrncf (f : Byte) (d : Dest) (a : RamSel) (s : State) : Res State :=
  byteD f d a true
    (fun v _ fl =>
      let r : Byte := v.extractLsb' 0 1 ++ v.extractLsb' 1 7
      (r, setNZ r fl)) s

/-- R225. -/
def execSetf (f : Byte) (a : RamSel) (s : State) : Res State :=
  writeOnly f a 0xFF#8 false s.flags s

/-- R226. -/
def execSubfwb (f : Byte) (d : Dest) (a : RamSel) (s : State) : Res State :=
  byteD f d a true (fun v w fl => add8 w (~~~v) fl.c) s

/-- R227. -/
def execSubwf (f : Byte) (d : Dest) (a : RamSel) (s : State) : Res State :=
  byteD f d a true (fun v w _ => add8 v (~~~w) true) s

/-- R228. -/
def execSubwfb (f : Byte) (d : Dest) (a : RamSel) (s : State) : Res State :=
  byteD f d a true (fun v w fl => add8 v (~~~w) fl.c) s

/-- R229. -/
def execSwapf (f : Byte) (d : Dest) (a : RamSel) (s : State) : Res State :=
  byteD f d a false (fun v _ fl => (v.extractLsb' 0 4 ++ v.extractLsb' 4 4, fl)) s

/-- R230. -/
def execTstfsz (f : Byte) (a : RamSel) (s : State) : Res State :=
  testSkip f a (fun v => v == 0) s

/-- R231. -/
def execXorwf (f : Byte) (d : Dest) (a : RamSel) (s : State) : Res State :=
  byteD f d a true (fun v w fl => (w ^^^ v, setNZ (w ^^^ v) fl)) s

end Sys2Proof.Machine
end

