-- ==== Sys2Proof/Machine/Control.lean ====
section
/-! DEFINITION. The meanings of the control operations (42_control.md). -/

namespace Sys2Proof.Machine

/-- R271. -/
def execBc (n : BitVec 8) (s : State) : Res State := branchIf s.flags.c n s

/-- R272. -/
def execBn (n : BitVec 8) (s : State) : Res State := branchIf s.flags.n n s

/-- R273. -/
def execBnc (n : BitVec 8) (s : State) : Res State := branchIf (!s.flags.c) n s

/-- R274. -/
def execBnn (n : BitVec 8) (s : State) : Res State := branchIf (!s.flags.n) n s

/-- R275. -/
def execBnov (n : BitVec 8) (s : State) : Res State := branchIf (!s.flags.ov) n s

/-- R276. -/
def execBnz (n : BitVec 8) (s : State) : Res State := branchIf (!s.flags.z) n s

/-- R277. -/
def execBov (n : BitVec 8) (s : State) : Res State := branchIf s.flags.ov n s

/-- R278. -/
def execBra (n : BitVec 11) (s : State) : Res State := .next (s.setPc (relTarget11 s.pc n))

/-- R279. -/
def execBz (n : BitVec 8) (s : State) : Res State := branchIf s.flags.z n s

/-- R280. -/
def execCall (k : BitVec 20) (fast : Bool) (s : State) : Res State :=
  pushThen (s.pc + 4) s fun s1 => .next ((if fast then save s1 else s1).setPc (wordTarget k))

/-- R281. -/
def execClrwdt (s : State) : Res State := .next (s.setPower true true).advance

/-- R282. -/
def execDaw (s : State) : Res State :=
  let y := daw s.cfg.dawVariant s.w s.flags.c s.flags.dc
  .next ((s.setW y.1).setFlags { s.flags with c := y.2 }).advance

/-- R283. -/
def execGoto (k : BitVec 20) (s : State) : Res State := .next (s.setPc (wordTarget k))

/-- R284. -/
def execNop (s : State) : Res State := .next s.advance

/-- R285: the twelve bits are ignored. -/
def execNop2 (_x : BitVec 12) (s : State) : Res State := .next s.advance

/-- R286. At SP = 0 with `edges = hardware` and P_STVREN clear the pc still goes to `pc + 2`, as R286 says ("the PC is not
loaded"), where 10_state.md R47 and 70_reset_and_hazards.md R392 say of a pop there that 0 goes to the pc (DESIGN CHOICE,
log 32). -/
def execPop (s : State) : Res State := popThen s fun _ s1 => .next (s1.setPc (s.pc + 2))

/-- R287. -/
def execPush (s : State) : Res State := pushThen (s.pc + 2) s fun s1 => .next (s1.setPc (s.pc + 2))

/-- R288. -/
def execRcall (n : BitVec 11) (s : State) : Res State :=
  pushThen (s.pc + 2) s fun s1 => .next (s1.setPc (relTarget11 s.pc n))

/-- R289. -/
def execReset (s : State) : Res State := .next (resetColumn s)

/-- R290. -/
def execRetfie (fast : Bool) (s : State) : Res State := returnFromInterrupt fast s

/-- R291. Log 12. -/
def execRetlw (k : Byte) (s : State) : Res State := popThen (s.setW k) fun p s1 => .next (s1.setPc p)

/-- R292. -/
def execReturn (fast : Bool) (s : State) : Res State :=
  popThen s fun p s1 => .next (if fast then restore (s1.setPc p) else s1.setPc p)

/-- R293. -/
def execSleep (s : State) : Res State := .next ((s.setPower true false).setAsleep true).advance

end Sys2Proof.Machine
end

