-- ==== Sys2Proof/Machine/Literal.lean ====
section
/-! DEFINITION. The meanings of the literal operations (43_literal.md). -/

namespace Sys2Proof.Machine

/-- R310. -/
def execAddlw (k : Byte) (s : State) : Res State := literalW (add8 s.w k false) s

/-- R311. -/
def execAndlw (k : Byte) (s : State) : Res State := literalW (s.w &&& k, setNZ (s.w &&& k) s.flags) s

/-- R312. -/
def execIorlw (k : Byte) (s : State) : Res State := literalW (s.w ||| k, setNZ (s.w ||| k) s.flags) s

/-- R313; `ff = 11` names no FSR and is an unassigned word (R160, D20, D4). -/
def execLfsr (ff : BitVec 2) (k : BitVec 12) (s : State) : Res State :=
  match fsrOfField ff with
  | some i => .next ((s.setFsr i k).setPc (s.pc + 4))
  | none =>
    match s.cfg.unassigned with
    | .refuse => .refused (.unassignedOpcode s.pc (encodeFirst (.lfsr ff k)))
    | .nop => .next s.advance

/-- R314. -/
def execMovlb (k : BitVec 4) (s : State) : Res State := .next (s.setBsr k).advance

/-- R315. -/
def execMovlw (k : Byte) (s : State) : Res State := literalW (k, s.flags) s

/-- R316. -/
def execMullw (k : Byte) (s : State) : Res State :=
  .next (s.setProd (s.w.zeroExtend 16 * k.zeroExtend 16)).advance

/-- R318. -/
def execSublw (k : Byte) (s : State) : Res State := literalW (add8 k (~~~s.w) true) s

/-- R319. -/
def execXorlw (k : Byte) (s : State) : Res State := literalW (s.w ^^^ k, setNZ (s.w ^^^ k) s.flags) s

end Sys2Proof.Machine
end

