-- ==== Sys2Proof/Machine/Table.lean ====
section
/-! DEFINITION. The meanings of the table operations (44_table.md). -/

namespace Sys2Proof.Machine

/-- R332. -/
def execTblrd (s : State) : Res State := andThen (tableRead s) fun s1 => .next s1.advance

/-- R333. -/
def execTblrdPostInc (s : State) : Res State :=
  andThen (tableRead s) fun s1 => .next (s1.setTblptr (s.tblptr + 1)).advance

/-- R334. -/
def execTblrdPostDec (s : State) : Res State :=
  andThen (tableRead s) fun s1 => .next (s1.setTblptr (s.tblptr - 1)).advance

/-- R336. -/
def execTblrdPreInc (s : State) : Res State :=
  andThen (tableRead (s.setTblptr (s.tblptr + 1))) fun s1 => .next s1.advance

/-- R337. -/
def execTblwt (s : State) : Res State := andThen (tableWrite s) fun s1 => .next s1.advance

/-- R338. -/
def execTblwtPostInc (s : State) : Res State :=
  andThen (tableWrite s) fun s1 => .next (s1.setTblptr (s.tblptr + 1)).advance

/-- R339. -/
def execTblwtPostDec (s : State) : Res State :=
  andThen (tableWrite s) fun s1 => .next (s1.setTblptr (s.tblptr - 1)).advance

/-- R340. -/
def execTblwtPreInc (s : State) : Res State :=
  andThen (tableWrite (s.setTblptr (s.tblptr + 1))) fun s1 => .next s1.advance

end Sys2Proof.Machine
end

