-- ==== Sys2Proof/Machine/Boundary.lean ====
section
/-! DEFINITION. What happens at an instruction boundary: the inputs, resets from outside, waking up, recognising an
interrupt, and running the instruction at pc (60_exceptions.md R353, R360, R361, R370, R372; 70_reset_and_hazards.md
R390). -/

namespace Sys2Proof.Machine

/-- What the environment does at this boundary (silent when nothing is listed, R361, R394). -/
def currentInput (s : State) : Input :=
  match s.inputs with
  | [] => Input.silent
  | i :: _ => i

/-- The input of this boundary is used up; what peripherals read as changes as it says. -/
def takeInput (s : State) : State :=
  match s.inputs with
  | [] => s
  | i :: rest => { s with inputs := rest, periphIn := Memory.writeAll .periph s.periphIn i.periph }

/-- Run the instruction at pc (R353, steps 2 to 7). -/
def runInstr (s : State) : Res State :=
  andThen (fetchInstr s) fun r =>
    match r with
    | some i => exec i s
    | none => .next s.advance

/-- A request is pending: the oracle's, or one a wake-up latched. -/
def pendingHigh (i : Input) (s : State) : Bool := i.irqHigh || s.heldHigh

/-- The same for the low level. -/
def pendingLow (i : Input) (s : State) : Bool := i.irqLow || s.heldLow

/-- 60_exceptions.md R370 (b), (c): an event that ends standby mode. -/
def wakes (i : Input) (s : State) : Bool := i.wdtTimeout || pendingHigh i s || pendingLow i s

/-- The state after waking (R370): awake, `TO = 0` if the watchdog woke it, and a request that meets the enable
condition of R361 latched for the boundary after the next instruction, which tests it again: see `boundary` (log 13). -/
def wakeUp (i : Input) (s : State) : State :=
  let taken := (irqLevel (pendingHigh i s) (pendingLow i s) s).isSome
  ((s.setAsleep false).setPower (s.toBit && !i.wdtTimeout) s.pdBit).setHeld
    (taken && pendingHigh i s) (taken && pendingLow i s)

/-- One boundary and what follows it, `s` being the state with the input taken: a reset from outside; a watchdog
reset; standby mode, or waking and running the instruction after SLEEP (log 13, log 14); an interrupt entry (log 27);
else the instruction at pc. Log 15.

A request that a wake-up latched meets the condition of R361 again at the next boundary: it is dropped if the instruction
after SLEEP cleared its enable bit; and if that instruction is itself SLEEP the request ends standby again, so that one
more instruction runs before it is taken. R370 (c) says only "then the interrupt is taken" (DESIGN CHOICE, log 13). -/
def boundary (i : Input) (s : State) : Res State :=
  match i.reset with
  | some kind => .next (externalReset kind s)
  | none =>
    if s.asleep then
      if wakes i s then runInstr (wakeUp i s) else .next s
    else if i.wdtTimeout then .next (watchdogReset s)
    else
      match irqLevel (pendingHigh i s) (pendingLow i s) s with
      | some level => enterInterrupt level (s.setHeld false false)
      | none => runInstr (s.setHeld false false)

end Sys2Proof.Machine
end

