-- ==== Sys2Proof/Machine/Step.lean ====
section
/-! DEFINITION. One step of the machine, and how an instruction is placed where the next step fetches it. -/

namespace Sys2Proof.Machine

/-- One step: one instruction boundary and what follows it (`boundary`). -/
def step (s : State) : Host.Outcome State Fault Refusal := boundary (currentInput s) (takeInput s)

/-- The state with an instruction of the opcode table, given as its bits, in program memory at pc, the core awake and
the environment silent, so that the next step runs it. It stands for the load of a program (log 4). -/
def State.withFetchWord (s : State) (nbits w : Nat) : State :=
  let cell (k : Nat) (b : Byte) : Host.Cell := ((s.pc + BitVec.ofNat 21 k).toNat, b)
  let cells :=
    match tableBytes nbits w with
    | [b0, b1, b2, b3] => [cell 0 b0, cell 1 b1, cell 2 b2, cell 3 b3]
    | _ => []
  { s with
    pm := Memory.writeAll .program s.pm cells
    asleep := false
    inputs := []
    heldHigh := false
    heldLow := false }

end Sys2Proof.Machine
end

