-- ==== Sys2Proof/Safety.lean ====
section
/-! DEFINITION. The terms the statements use: the invariant of reachable states, the addresses an instruction may use
without a stop, what holds of a fetch, and the views of memory that frames are stated through. -/

namespace Sys2Proof.Machine

/-- Data memory lists implemented addresses only (10_state.md R35). -/
def dmImplemented (s : State) : Bool := s.dm.all fun c => inRanges s.cfg.gprImpl c.1 && c.1 < 2 ^ s.cfg.da.val

/-- The invariant every step keeps: the pc is even (10_state.md R40, R43) and the memories are in canonical form, data
memory at implemented addresses only. -/
structure Inv (s : State) : Prop where
  pc_even : s.pc.getLsbD 0 = false
  dm_wf : Memory.wf .data s.dm = true
  dm_impl : dmImplemented s = true
  pm_wf : Memory.wf .program s.pm = true
  periphIn_wf : Memory.wf .periph s.periphIn = true
  periphOut_wf : Memory.wf .periph s.periphOut = true

/-- The resolved address can be read: not an address behind P_PERIPH that is refused, not PCL in the cautious
configuration (20_memory.md R106, D21). -/
def readable (cfg : Config) (t : DataAddr) : Bool :=
  match placeOf cfg t with
  | .gpr | .virt => true
  | .core r => r != .pcl || cfg.pclAccess != .refuse
  | .outside => cfg.periph != .refuse

/-- The resolved address can be written: besides `readable`, no top-of-stack register while the stack is empty
(10_state.md R48, D22). -/
def writable (s : State) (t : DataAddr) : Bool :=
  readable s.cfg t &&
    match placeOf s.cfg t with
    | .core r => !(isTos r && s.sp == 0)
    | .gpr | .virt | .outside => true

/-- The data address an operand address stands for (20_memory.md R102): its target if it is a virtual register, itself
otherwise. -/
def targetOf (ea : DataAddr) (s : State) : DataAddr :=
  match virtAt s.cfg ea with
  | none => ea
  | some q => indirectTarget q.form (s.fsr q.idx) s.w

/-- `Resolve` gives an answer (20_memory.md R107). -/
def resolvable (ea : DataAddr) (s : State) : Bool :=
  match virtAt s.cfg ea with
  | none => true
  | some q => !targetUndefined s.cfg q (indirectTarget q.form (s.fsr q.idx) s.w)

/-- The state after `Resolve`: the FSR of a modifying indirect form has moved (20_memory.md R102). -/
def afterResolve (ea : DataAddr) (s : State) : State :=
  match virtAt s.cfg ea with
  | none => s
  | some q => s.setFsr q.idx (indirectFsr q.form (s.fsr q.idx))

/-- What the byte at a resolved address reads as (20_memory.md R104, R107). -/
def valueAt (t : DataAddr) (s : State) : Byte :=
  match placeOf s.cfg t with
  | .gpr => s.dmByte t
  | .virt => 0
  | .core r => sfrRead r s
  | .outside => Memory.read .periph s.periphIn t.toNat

/-- The state after a read: a read of PCL by an instruction that does not write it loads the latches (10_state.md R42
(b)). -/
def afterRead (t : DataAddr) (writesBack : Bool) (s : State) : State :=
  if placeOf s.cfg t = .core .pcl ∧ writesBack = false then loadLatches s else s

/-- The target of the operand `f, a`. -/
def fTarget (f : Byte) (a : RamSel) (s : State) : DataAddr := targetOf (ea f a s) s

/-- The value of the operand `f, a`. -/
def fValue (f : Byte) (a : RamSel) (s : State) : Byte := valueAt (fTarget f a s) (afterResolve (ea f a s) s)

/-- The state after the operand `f, a` is read. -/
def fState (f : Byte) (a : RamSel) (writesBack : Bool) (s : State) : State :=
  afterRead (fTarget f a s) writesBack (afterResolve (ea f a s) s)

/-- The operand `f, a` can be read. -/
def canRead (f : Byte) (a : RamSel) (s : State) : Bool :=
  resolvable (ea f a s) s && readable s.cfg (fTarget f a s)

/-- The operand `f, a` can be written. -/
def canWrite (f : Byte) (a : RamSel) (s : State) : Bool :=
  resolvable (ea f a s) s && writable s (fTarget f a s)

/-- The operand `f, a` can be read and the result can go where `d` says. -/
def canUse (f : Byte) (d : Dest) (a : RamSel) (s : State) : Bool :=
  canRead f a s && (d == .w || canWrite f a s)

/-- What 40_byte_oriented.md R200 says an instruction with the result `r` and the flags `fl` leaves: the operand's side
effects, the flags, the pc, and the result where `d` says. -/
def ByteOutcome (f : Byte) (d : Dest) (a : RamSel) (masked : Bool) (s : State) (r : Byte) (fl : Flags)
    (s' : State) : Prop :=
  match d with
  | .w => s' = (((fState f a false s).setFlags fl).setPc (s.pc + 2)).setW r
  | .f => memWrite (fTarget f a s) r masked (((fState f a true s).setFlags fl).setPc (s.pc + 2)) = .next s'

/-- The flags of an addition of unsigned bytes and a carry, in integers (10_state.md R36). -/
def sumFlags (x y : Byte) (c : Bool) : Flags where
  c := decide (256 ≤ x.toNat + y.toNat + c.toNat)
  dc := decide (16 ≤ x.toNat % 16 + y.toNat % 16 + c.toNat)
  z := decide ((x.toNat + y.toNat + c.toNat) % 256 = 0)
  ov := decide (x.toInt + y.toInt + c.toNat < -128 ∨ 127 < x.toInt + y.toInt + c.toNat)
  n := decide (128 ≤ (x.toNat + y.toNat + c.toNat) % 256)

/-- The sum byte. -/
def sumByte (x y : Byte) (c : Bool) : Byte := BitVec.ofNat 8 (x.toNat + y.toNat + c.toNat)

/-- The flags of the subtraction `p - q - b` in integers; C and DC are set when there is NO borrow (10_state.md R36). -/
def diffFlags (p q : Byte) (b : Bool) : Flags where
  c := decide (q.toNat + b.toNat ≤ p.toNat)
  dc := decide (q.toNat % 16 + b.toNat ≤ p.toNat % 16)
  z := decide (((p.toNat : Int) - q.toNat - b.toNat) % 256 = 0)
  ov := decide (p.toInt - q.toInt - b.toNat < -128 ∨ 127 < p.toInt - q.toInt - b.toNat)
  n := decide (128 ≤ ((p.toNat : Int) - q.toNat - b.toNat) % 256)

/-- The difference byte. -/
def diffByte (p q : Byte) (b : Bool) : Byte := BitVec.ofInt 8 ((p.toNat : Int) - q.toNat - b.toNat)

/-- The flags with Z and N those of a result, C, DC and OV kept (10_state.md R37). -/
def resultNZ (r : Byte) (fl : Flags) : Flags :=
  { fl with z := decide (r.toNat = 0), n := decide (128 ≤ r.toNat) }

/-- The word at `addr` can be fetched (10_state.md R41). -/
def fetchable (s : State) (addr : ProgAddr) : Bool :=
  (pmOk s.cfg addr && pmOk s.cfg (addr + 1)) || s.cfg.edges == .hardware

/-- The word of program memory at `addr` (20_memory.md R93). -/
def wordAt (s : State) (addr : ProgAddr) : Word := wordOfBytes (s.pmByte addr) (s.pmByte (addr + 1))

/-- A skip from here finds a word whose length is known (30_encoding.md R152). -/
def skippable (s : State) : Bool := fetchable s (s.pc + 2) && isAssigned (wordAt s (s.pc + 2))

/-- Where a skip from here goes (30_encoding.md R152). -/
def skipTarget (s : State) : ProgAddr := if isTwoWordFirst (wordAt s (s.pc + 2)) then s.pc + 6 else s.pc + 4

/-- What a write to the data address `t` may change: that address's byte or register, and nothing else (20_memory.md
R105, R109). -/
structure WriteFrame (t : DataAddr) (s s' : State) : Prop where
  w : placeOf s.cfg t ≠ .core .wreg → s'.w = s.w
  flags : placeOf s.cfg t ≠ .core .status → s'.flags = s.flags
  bsr : placeOf s.cfg t ≠ .core .bsr → s'.bsr = s.bsr
  fsr : ∀ i, placeOf s.cfg t ≠ .core (.fsrl i) → placeOf s.cfg t ≠ .core (.fsrh i) → s'.fsr i = s.fsr i
  prodh : placeOf s.cfg t ≠ .core .prodh → s'.prodh = s.prodh
  prodl : placeOf s.cfg t ≠ .core .prodl → s'.prodl = s.prodl
  tblptr : placeOf s.cfg t ≠ .core .tblptru → placeOf s.cfg t ≠ .core .tblptrh → placeOf s.cfg t ≠ .core .tblptrl →
    s'.tblptr = s.tblptr
  tablat : placeOf s.cfg t ≠ .core .tablat → s'.tablat = s.tablat
  pc : placeOf s.cfg t ≠ .core .pcl → s'.pc = s.pc
  pclath : placeOf s.cfg t ≠ .core .pclath → s'.pclath = s.pclath
  pclatu : placeOf s.cfg t ≠ .core .pclatu → s'.pclatu = s.pclatu
  stack : placeOf s.cfg t ≠ .core .tosu → placeOf s.cfg t ≠ .core .tosh → placeOf s.cfg t ≠ .core .tosl →
    s'.stack = s.stack
  entries : ∀ i, i ≠ s.sp → s'.entry i = s.entry i
  stkptr : placeOf s.cfg t ≠ .core .stkptr → s'.sp = s.sp ∧ s'.stkful = s.stkful ∧ s'.stkunf = s.stkunf
  intcon : placeOf s.cfg t ≠ .core .intcon → s'.gieh = s.gieh ∧ s'.giel = s.giel ∧ s'.intcon50 = s.intcon50
  rcon : placeOf s.cfg t ≠ .core .rcon →
    s'.ipen = s.ipen ∧ s'.lwrt = s.lwrt ∧ s'.ri = s.ri ∧ s'.por = s.por ∧ s'.bor = s.bor
  power : s'.toBit = s.toBit ∧ s'.pdBit = s.pdBit
  shadows : s'.ws = s.ws ∧ s'.statuss = s.statuss ∧ s'.bsrs = s.bsrs
  hidden : s'.asleep = s.asleep ∧ s'.hold0 = s.hold0 ∧ s'.hold1 = s.hold1 ∧ s'.heldHigh = s.heldHigh ∧
    s'.heldLow = s.heldLow ∧ s'.inputs = s.inputs ∧ s'.freeCtr = s.freeCtr ∧ s'.periphIn = s.periphIn
  fixed : s'.pm = s.pm ∧ s'.cfg = s.cfg
  dm : ∀ a, a ≠ t → s'.dmByte a = s.dmByte a
  periphOut : ∀ a, a ≠ t.toNat → Memory.read .periph s'.periphOut a = Memory.read .periph s.periphOut a

/-- Where a result may go, `base` being the state without it: with `d = 0` to WREG, with `d = 1` to the byte or register
at `t` (40_byte_oriented.md R200), and nothing else changes. -/
def DestFrame (d : Dest) (t : DataAddr) (base s' : State) : Prop :=
  match d with
  | .w => s' = base.setW s'.w
  | .f => WriteFrame t base s'

/-- The data address an instruction's result or operand write goes to, if it writes one (20_memory.md R103): computed as
the meanings compute it. `d = 0` and the implicit registers are no data write. -/
def destAddr (i : Instr) (s : State) : Option DataAddr :=
  match i with
  | .addwf f d a | .addwfc f d a | .andwf f d a | .comf f d a | .decf f d a | .decfsz f d a | .dcfsnz f d a
  | .incf f d a | .incfsz f d a | .infsnz f d a | .iorwf f d a | .movf f d a | .rlcf f d a | .rlncf f d a
  | .rrcf f d a | .rrncf f d a | .subfwb f d a | .subwf f d a | .subwfb f d a | .swapf f d a | .xorwf f d a =>
    match d with
    | .w => none
    | .f => some (fTarget f a s)
  | .clrf f a | .movwf f a | .negf f a | .setf f a | .bcf f _ a | .bsf f _ a | .btg f _ a => some (fTarget f a s)
  | .movff fs fd => some (targetOf fd (afterResolve fs s))
  | .cpfseq _ _ | .cpfsgt _ _ | .cpfslt _ _ | .mulwf _ _ | .tstfsz _ _ | .btfsc _ _ _ | .btfss _ _ _
  | .bc _ | .bn _ | .bnc _ | .bnn _ | .bnov _ | .bnz _ | .bov _ | .bra _ | .bz _ | .call _ _ | .clrwdt | .daw
  | .goto _ | .nop | .nop2 _ | .pop | .push | .rcall _ | .reset | .retfie _ | .retlw _ | .retn _ | .sleep
  | .addlw _ | .andlw _ | .iorlw _ | .lfsr _ _ | .movlb _ | .movlw _ | .mullw _ | .sublw _ | .xorlw _
  | .tblrd | .tblrdPostInc | .tblrdPostDec | .tblrdPreInc
  | .tblwt | .tblwtPostInc | .tblwtPostDec | .tblwtPreInc => none

/-- The arithmetic flags an instruction writes (10_state.md R32, with P_FLAGS_VARIANT): a flag is true here when it is
written. -/
def statusSet (variant : FlagsVariant) (i : Instr) : Flags :=
  let all : Flags := ⟨true, true, true, true, true⟩
  let zn : Flags := ⟨true, false, true, false, false⟩
  let czn : Flags := ⟨true, false, true, false, true⟩
  match i with
  | .addwf _ _ _ | .addwfc _ _ _ | .decf _ _ _ | .incf _ _ _ | .subfwb _ _ _ | .subwf _ _ _ | .subwfb _ _ _
  | .addlw _ | .sublw _ | .reset => all
  | .negf _ _ => if variant = .corrected then all else Flags.clear
  | .rlcf _ _ _ => if variant = .corrected then czn else all
  | .rrcf _ _ _ => czn
  | .iorwf _ _ _ => if variant = .corrected then zn else Flags.clear
  | .andwf _ _ _ | .comf _ _ _ | .movf _ _ _ | .rlncf _ _ _ | .rrncf _ _ _ | .xorwf _ _ _
  | .andlw _ | .iorlw _ | .xorlw _ => zn
  | .clrf _ _ => ⟨false, false, true, false, false⟩
  | .daw => ⟨false, false, false, false, true⟩
  | .cpfseq _ _ | .cpfsgt _ _ | .cpfslt _ _ | .decfsz _ _ _ | .dcfsnz _ _ _ | .incfsz _ _ _ | .infsnz _ _ _
  | .movff _ _ | .movwf _ _ | .mulwf _ _ | .setf _ _ | .swapf _ _ _ | .tstfsz _ _
  | .bcf _ _ _ | .bsf _ _ _ | .btfsc _ _ _ | .btfss _ _ _ | .btg _ _ _
  | .bc _ | .bn _ | .bnc _ | .bnn _ | .bnov _ | .bnz _ | .bov _ | .bra _ | .bz _ | .call _ _ | .clrwdt
  | .goto _ | .nop | .nop2 _ | .pop | .push | .rcall _ | .retfie _ | .retlw _ | .retn _ | .sleep
  | .lfsr _ _ | .movlb _ | .movlw _ | .mullw _
  | .tblrd | .tblrdPostInc | .tblrdPostDec | .tblrdPreInc
  | .tblwt | .tblwtPostInc | .tblwtPostDec | .tblwtPreInc => Flags.clear

/-- The instruction restores STATUS from its shadow (10_state.md R50). -/
def restoresStatus : Instr → Bool
  | .retn fast | .retfie fast => fast
  | .addwf _ _ _ | .addwfc _ _ _ | .andwf _ _ _ | .clrf _ _ | .comf _ _ _ | .cpfseq _ _ | .cpfsgt _ _
  | .cpfslt _ _ | .decf _ _ _ | .decfsz _ _ _ | .dcfsnz _ _ _ | .incf _ _ _ | .incfsz _ _ _ | .infsnz _ _ _
  | .iorwf _ _ _ | .movf _ _ _ | .movff _ _ | .movwf _ _ | .mulwf _ _ | .negf _ _ | .rlcf _ _ _ | .rlncf _ _ _
  | .rrcf _ _ _ | .rrncf _ _ _ | .setf _ _ | .subfwb _ _ _ | .subwf _ _ _ | .subwfb _ _ _ | .swapf _ _ _
  | .tstfsz _ _ | .xorwf _ _ _ | .bcf _ _ _ | .bsf _ _ _ | .btfsc _ _ _ | .btfss _ _ _ | .btg _ _ _
  | .bc _ | .bn _ | .bnc _ | .bnn _ | .bnov _ | .bnz _ | .bov _ | .bra _ | .bz _ | .call _ _ | .clrwdt | .daw
  | .goto _ | .nop | .nop2 _ | .pop | .push | .rcall _ | .reset | .retlw _ | .sleep
  | .addlw _ | .andlw _ | .iorlw _ | .lfsr _ _ | .movlb _ | .movlw _ | .mullw _ | .sublw _ | .xorlw _
  | .tblrd | .tblrdPostInc | .tblrdPostDec | .tblrdPreInc
  | .tblwt | .tblwtPostInc | .tblwtPostDec | .tblwtPreInc => false

/-- The register map is the table of 10_state.md R60, and no implemented general-purpose address lies in it (R35). -/
structure SpecMap (cfg : Config) : Prop where
  table : cfg.sfrMap = r60Map
  apart : ∀ t, gprOk cfg t = true → regAt cfg t = none

/-- The twelve addresses of 20_memory.md R107: POSTINCi, POSTDECi, PREINCi and PLUSWi. -/
def otherIndirect : List DataAddr :=
  [0xFEE, 0xFED, 0xFEC, 0xFEB, 0xFE6, 0xFE5, 0xFE4, 0xFE3, 0xFDE, 0xFDD, 0xFDC, 0xFDB]

/-- A resolved address reads as the number `n`, and the read changes nothing. -/
def ReadsAs (t : DataAddr) (s : State) (n : Nat) : Prop :=
  ∃ b : Byte, b.toNat = n ∧ ∀ wb, memRead t wb s = .next ⟨b, s⟩

/-- The instruction's own rule assigns the pc (10_state.md R41): skips, branches, calls, returns and RESET. -/
def assignsPc : Instr → Bool
  | .cpfseq _ _ | .cpfsgt _ _ | .cpfslt _ _ | .tstfsz _ _ | .decfsz _ _ _ | .dcfsnz _ _ _ | .incfsz _ _ _
  | .infsnz _ _ _ | .btfsc _ _ _ | .btfss _ _ _
  | .bc _ | .bn _ | .bnc _ | .bnn _ | .bnov _ | .bnz _ | .bov _ | .bra _ | .bz _ | .call _ _ | .goto _ | .rcall _
  | .reset | .retfie _ | .retlw _ | .retn _ => true
  | .addwf _ _ _ | .addwfc _ _ _ | .andwf _ _ _ | .clrf _ _ | .comf _ _ _ | .decf _ _ _ | .incf _ _ _
  | .iorwf _ _ _ | .movf _ _ _ | .movff _ _ | .movwf _ _ | .mulwf _ _ | .negf _ _ | .rlcf _ _ _ | .rlncf _ _ _
  | .rrcf _ _ _ | .rrncf _ _ _ | .setf _ _ | .subfwb _ _ _ | .subwf _ _ _ | .subwfb _ _ _ | .swapf _ _ _
  | .xorwf _ _ _ | .bcf _ _ _ | .bsf _ _ _ | .btg _ _ _ | .clrwdt | .daw | .nop | .nop2 _ | .pop | .push | .sleep
  | .addlw _ | .andlw _ | .iorlw _ | .lfsr _ _ | .movlb _ | .movlw _ | .mullw _ | .sublw _ | .xorlw _
  | .tblrd | .tblrdPostInc | .tblrdPostDec | .tblrdPreInc
  | .tblwt | .tblwtPostInc | .tblwtPostDec | .tblwtPreInc => false

/-- A push takes the last free level of the return stack (10_state.md R46: SP = 30 with P_STACK_DEPTH = 31). -/
def fills (s : State) : Bool := s.sp.toNat + 1 == s.cfg.stackDepth.val

/-- The push will not stop or reset the device: the stack has room (10_state.md R46). -/
def canPush (s : State) : Bool := decide (s.sp.toNat + 1 < s.cfg.stackDepth.val) || (fills s && !s.cfg.stvren)

/-- What `Push(v)` leaves when `canPush` (10_state.md R46): SP one more, `v` at the new top, every other entry as it
was, STKFUL set when the stack is now full, and nothing else changed. -/
structure Pushed (v : BitVec 21) (s s' : State) : Prop where
  sp : s'.sp = s.sp + 1
  top : s'.entry s'.sp = v
  others : ∀ i, i ≠ s'.sp → s'.entry i = s.entry i
  stkful : s'.stkful = (s.stkful || fills s)
  frame : s' = { s with sp := s'.sp, stack := s'.stack, stkful := s'.stkful }

/-- The return stack is full (10_state.md R46: SP = 31 with P_STACK_DEPTH = 31). -/
def full (s : State) : Bool := decide (s.cfg.stackDepth.val ≤ s.sp.toNat)

/-- The operand `f, a` of a file-register instruction; MOVFF has two full addresses instead (20_memory.md R101). -/
def fileOperand (i : Instr) : Option (Byte × RamSel) :=
  match i with
  | .addwf f _ a | .addwfc f _ a | .andwf f _ a | .comf f _ a | .decf f _ a | .decfsz f _ a | .dcfsnz f _ a
  | .incf f _ a | .incfsz f _ a | .infsnz f _ a | .iorwf f _ a | .movf f _ a | .rlcf f _ a | .rlncf f _ a
  | .rrcf f _ a | .rrncf f _ a | .subfwb f _ a | .subwf f _ a | .subwfb f _ a | .swapf f _ a | .xorwf f _ a
  | .clrf f a | .cpfseq f a | .cpfsgt f a | .cpfslt f a | .movwf f a | .mulwf f a | .negf f a | .setf f a
  | .tstfsz f a | .bcf f _ a | .bsf f _ a | .btfsc f _ a | .btfss f _ a | .btg f _ a => some (f, a)
  | .movff _ _ | .bc _ | .bn _ | .bnc _ | .bnn _ | .bnov _ | .bnz _ | .bov _ | .bra _ | .bz _ | .call _ _ | .clrwdt
  | .daw | .goto _ | .nop | .nop2 _ | .pop | .push | .rcall _ | .reset | .retfie _ | .retlw _ | .retn _ | .sleep
  | .addlw _ | .andlw _ | .iorlw _ | .lfsr _ _ | .movlb _ | .movlw _ | .mullw _ | .sublw _ | .xorlw _
  | .tblrd | .tblrdPostInc | .tblrdPostDec | .tblrdPreInc
  | .tblwt | .tblwtPostInc | .tblwtPostDec | .tblwtPreInc => none

/-- The data address names nothing this model has: neither general-purpose RAM nor a register (20_memory.md R106). -/
def unmapped (cfg : Config) (t : DataAddr) : Bool := !gprOk cfg t && regAt cfg t == none

/-- What 10_state.md R70's column "RESET instruction" says a reset leaves, its entries `x` apart, and TO and BOR apart,
which 70_reset_and_hazards.md R390 and R391 give by the kind of reset. -/
structure ResetColumn (s s' : State) : Prop where
  pc : s'.pc = 0
  sp : s'.sp = 0
  stack : s'.stack = s.stack
  latches : s'.pclatu = 0 ∧ s'.pclath = 0
  tblptr : s'.tblptr = 0
  tablat : s'.tablat = 0
  prod : s'.prodh = s.prodh ∧ s'.prodl = s.prodl
  enables : s'.gieh = false ∧ s'.giel = false
  intcon : s'.intcon50.toNat = s.intcon50.toNat % 2
  fsr : ∀ i, (s'.fsr i).toNat = (s.fsr i).toNat % 256
  w : s'.w = s.w
  bsr : s'.bsr = 0
  ipen : s'.ipen = false
  lwrt : s'.lwrt = s.lwrt
  ri : s'.ri = false
  pdBit : s'.pdBit = s.pdBit
  por : s'.por = s.por
  dm : s'.dm = s.dm
  asleep : s'.asleep = false
  pm : s'.pm = s.pm

/-- The level at which this boundary takes a request, the oracle's or one a wake-up latched (60_exceptions.md R361, R370
(c)). -/
def requested (s : State) : Option Level :=
  irqLevel ((currentInput s).irqHigh || s.heldHigh) ((currentInput s).irqLow || s.heldLow) s

/-- No reset from outside and no watchdog time-out at this boundary, and the core is awake. -/
def undisturbed (s : State) : Bool :=
  (currentInput s).reset == none && !(currentInput s).wdtTimeout && !s.asleep

/-- The state once the boundary has used its input up and let the latched requests go (log 7, log 13): what peripherals
read as is what the input says. -/
def atBoundary (s : State) : State :=
  match s.inputs with
  | [] => { s with heldHigh := false, heldLow := false }
  | i :: rest => { s with
      inputs := rest, periphIn := Memory.writeAll .periph s.periphIn i.periph, heldHigh := false, heldLow := false }

/-- The environment is silent at this boundary, and no request is latched (60_exceptions.md R361). -/
def silent (s : State) : Bool :=
  s.inputs == [] && !s.heldHigh && !s.heldLow

/-- The step does not stop: the safe outcome (60_exceptions.md R351). -/
def runs (s : State) : Prop := ∃ s', step s = .next s'

end Sys2Proof.Machine
end

