-- ==== Sys2Proof/Certificates/Slice0/Obligations.lean ====
section
/-! DEFINITION. The statements for the provers, from the numbered rules of spec/. -/

open Sys2Proof Sys2Proof.Machine

/-! Encoding -/

/-- 30_encoding.md R131 to R144: words written out from the formats decode to the instructions they stand for, low byte
first (20_memory.md R93). -/
def Obligations.SampleWordsDecode : Prop :=
  decode [0x20, 0x24] = .ok (.addwf 0x20 .w .access, []) ∧
  decode [0x7E, 0x6B] = .ok (.clrf 0x7E .banked, []) ∧
  decode [0x20, 0x56] = .ok (.subfwb 0x20 .f .access, []) ∧
  decode [0x20, 0x5A] = .ok (.subwfb 0x20 .f .access, []) ∧
  decode [0x30, 0x9C] = .ok (.bcf 0x30 6 .access, []) ∧
  decode [0xB4, 0xE2] = .ok (.bc 0xB4, []) ∧
  decode [0x53, 0xD6] = .ok (.bra 0x653, []) ∧
  decode [0x5A, 0x0E] = .ok (.movlw 0x5A, []) ∧
  decode [0x0B, 0x00] = .ok (.tblrdPreInc, []) ∧
  decode [0xF8, 0xCD, 0x18, 0xFC] = .ok (.movff 0xDF8 0xC18, []) ∧
  decode [0xD2, 0xED, 0x84, 0xFA] = .ok (.call 0xA84D2 true, []) ∧
  decode [0x23, 0xEE, 0xAB, 0xF0] = .ok (.lfsr 2 0x3AB, []) ∧
  decode [0x30, 0xEE, 0x00, 0xF0] = .error (.unassigned 0xEE30) ∧
  decode [0x1A, 0xEF, 0x09, 0xE0] = .error (.malformedSecondWord 0xE009)

/-- Decoding the bytes of a well-formed instruction gives it back, with every operand at every value. -/
def Obligations.DecodeOfEncode : Prop :=
  ∀ (i : Instr) (rest : List Byte), i.wellFormed = true → decode (encodeBytes i ++ rest) = .ok (i, rest)

/-- Words that pass R162 and R151 encode back to themselves: no bit of an assigned word is dropped. -/
def Obligations.EncodeOfDecode : Prop :=
  ∀ (w1 w2 : Word) (i : Instr), decodeChecked w1 w2 = .ok i →
    i.wellFormed = true ∧ encodeFirst i = w1 ∧
      encodeSecond i = if isTwoWordFirst w1 then some w2 else none

/-- 30_encoding.md R160: exactly the listed words are unassigned, and running one is `UnassignedOpcode`, or a NOP with
P_UNASSIGNED = nop. -/
def Obligations.UnassignedWords : Prop :=
  (∀ w : Word, isAssigned w = false ↔
    (w.toNat = 0x0001 ∨ w.toNat = 0x0002 ∨ (0x0014 ≤ w.toNat ∧ w.toNat ≤ 0x00FE) ∨
      (0x0110 ≤ w.toNat ∧ w.toNat ≤ 0x01FF) ∨ (0xE800 ≤ w.toNat ∧ w.toNat ≤ 0xEBFF) ∨
      (0xEE30 ≤ w.toNat ∧ w.toNat ≤ 0xEEFF))) ∧
  (∀ s : State, silent s = true → s.asleep = false → fetchable s s.pc = true → isAssigned (wordAt s s.pc) = false →
    (s.cfg.unassigned = .refuse → step s = .refused (.unassignedOpcode s.pc (wordAt s s.pc))) ∧
    (s.cfg.unassigned = .nop → step s = .next (s.setPc (s.pc + 2))))

/-- 30_encoding.md R150: which words are first words of two-word instructions; a second word begins 1111; and a word
beginning 1111 that is reached by itself is the form NOP2, which does nothing. -/
def Obligations.TwoWordInstructions : Prop :=
  (∀ w : Word, isTwoWordFirst w = true ↔
    (w.toNat / 2 ^ 12 = 0b1100 ∨ w.toNat / 2 ^ 9 = 0b1110110 ∨ w.toNat / 2 ^ 8 = 0b11101111 ∨
      w.toNat / 2 ^ 6 = 0b1110111000)) ∧
  (∀ (i : Instr) (w2 : Word), encodeSecond i = some w2 →
    isTwoWordFirst (encodeFirst i) = true ∧ w2.toNat / 2 ^ 12 = 0b1111) ∧
  (∀ (w w2 : Word) (s : State), w.toNat / 2 ^ 12 = 0b1111 →
    ∃ x, decodeWords w w2 = .ok (.nop2 x) ∧ exec (.nop2 x) s = .next (s.setPc (s.pc + 2)))

/-! The step -/

/-- 60_exceptions.md R361, R353: where no request is taken (none, or none that is enabled) and no reset and no time-out
comes, a step of the awake core runs the instruction whose bytes lie at the pc. The boundary's input is used up and a
latched request is let go, which is the model's choice (log 7, log 13); with a silent environment nothing else is done. -/
def Obligations.StepRunsDecoded : Prop :=
  ∀ (s : State) (i : Instr), fetchable s s.pc = true →
    (decode [s.pmByte s.pc, s.pmByte (s.pc + 1)] = .ok (i, []) ∨
      (fetchable s (s.pc + 2) = true ∧
        decode [s.pmByte s.pc, s.pmByte (s.pc + 1), s.pmByte (s.pc + 2), s.pmByte (s.pc + 2 + 1)] = .ok (i, []))) →
    (undisturbed s = true → requested s = none → step s = exec i (atBoundary s)) ∧
    (silent s = true → s.asleep = false → step s = exec i s)

/-- Where a fetch stops the machine: 10_state.md R41 and 30_encoding.md R151, in the order of 60_exceptions.md R353,
with the model's `edges = stop`. -/
def Obligations.FetchStops : Prop :=
  ∀ s : State, silent s = true → s.asleep = false → s.cfg.edges = .stop →
    (fetchable s s.pc = false → step s = .refused (.fetchOutsideProgramMemory s.pc)) ∧
    (fetchable s s.pc = true → isAssigned (wordAt s s.pc) = true → isTwoWordFirst (wordAt s s.pc) = true →
      (fetchable s (s.pc + 2) = false → step s = .refused (.fetchOutsideProgramMemory (s.pc + 2))) ∧
      (fetchable s (s.pc + 2) = true →
        ((wordAt s (s.pc + 2)).toNat / 2 ^ 12 ≠ 0b1111 ∨
          ((wordAt s s.pc).toNat / 2 ^ 8 = 0xEE ∧ (wordAt s (s.pc + 2)).toNat / 2 ^ 8 ≠ 0xF0)) →
        step s = .refused (.malformedSecondWord s.pc (wordAt s (s.pc + 2)))))

/-- Every step keeps the invariant: the pc even, every memory in canonical form, data memory at implemented addresses
only. -/
def Obligations.StepKeepsInv : Prop :=
  ∀ s s' : State, Inv s → step s = .next s' → Inv s'

/-- The machine after power-on meets the invariant. -/
def Obligations.ResetMeetsInv : Prop := Inv State.reset

/-- 20_memory.md R91, R118: no step writes program memory; and no step changes the parameters (the model's `cfg`). -/
def Obligations.ProgramMemoryImmutable : Prop :=
  ∀ s s' : State, step s = .next s' → s'.pm = s.pm ∧ s'.cfg = s.cfg

/-- 10_state.md R32, 20_memory.md R108: an instruction changes no flag outside its status set, unless it writes STATUS
as data or restores it; with the model's `edges = stop`, so that no stack reset intervenes. -/
def Obligations.FlagsOutsideTheStatusSetStay : Prop :=
  ∀ (i : Instr) (s s' : State), s.cfg.edges = .stop → exec i s = .next s' → restoresStatus i = false →
    ((∀ t, destAddr i s = some t → placeOf s.cfg t ≠ .core .status) ∨
      statusSet s.cfg.flagsVariant i ≠ Flags.clear) →
    ((statusSet s.cfg.flagsVariant i).c = false → s'.flags.c = s.flags.c) ∧
    ((statusSet s.cfg.flagsVariant i).dc = false → s'.flags.dc = s.flags.dc) ∧
    ((statusSet s.cfg.flagsVariant i).z = false → s'.flags.z = s.flags.z) ∧
    ((statusSet s.cfg.flagsVariant i).ov = false → s'.flags.ov = s.flags.ov) ∧
    ((statusSet s.cfg.flagsVariant i).n = false → s'.flags.n = s.flags.n)

/-- 10_state.md R41: an instruction whose rule does not assign the pc, and whose destination is not PCL, moves it past
its words; with `edges = stop`. -/
def Obligations.PcAdvances : Prop :=
  ∀ (i : Instr) (s s' : State), s.cfg.edges = .stop → i.wellFormed = true → exec i s = .next s' →
    assignsPc i = false → (∀ t, destAddr i s = some t → placeOf s.cfg t ≠ .core .pcl) →
    s'.pc = s.pc + BitVec.ofNat 21 (2 * instrWords i)

/-- For EVERY instruction: each data-memory byte outside the address it writes reads as before, and an instruction that
writes no data byte leaves them all. -/
def Obligations.DataMemoryFrame : Prop :=
  ∀ (i : Instr) (s s' : State), exec i s = .next s' →
    ∀ a, destAddr i s ≠ some a → s'.dmByte a = s.dmByte a

/-- 20_memory.md R105, 10_state.md R53: no instruction clears LWRT, and only CLRWDT and SLEEP change TO and PD. -/
def Obligations.LwrtAndPowerBitsFrame : Prop :=
  ∀ (i : Instr) (s s' : State), exec i s = .next s' →
    (s.lwrt = true → s'.lwrt = true) ∧
    (i ≠ .clrwdt → i ≠ .sleep → s'.toBit = s.toBit ∧ s'.pdBit = s.pdBit)

/-- 10_state.md R50: the shadows change only by a fast CALL among the instructions (RESET apart); with `edges = stop`. -/
def Obligations.ShadowsChangeOnlyByFastCall : Prop :=
  ∀ (i : Instr) (s s' : State), s.cfg.edges = .stop → exec i s = .next s' → i ≠ .reset →
    (∀ k, i ≠ .call k true) → s'.ws = s.ws ∧ s'.statuss = s.statuss ∧ s'.bsrs = s.bsrs

/-! Reset -/

/-- 10_state.md R70, both columns: the state after power-on where the table gives a value, and what the RESET
instruction leaves; nothing is said of an entry `x`. -/
def Obligations.ResetColumns : Prop :=
  (State.reset.pc = 0 ∧ State.reset.sp = 0 ∧ State.reset.stkful = false ∧ State.reset.stkunf = false ∧
    State.reset.pclatu = 0 ∧ State.reset.pclath = 0 ∧ State.reset.tblptr = 0 ∧ State.reset.tablat = 0 ∧
    State.reset.gieh = false ∧ State.reset.giel = false ∧ State.reset.intcon50.toNat / 2 = 0 ∧
    (∀ i, (State.reset.fsr i).toNat / 256 = 0) ∧ State.reset.bsr = 0 ∧ State.reset.ipen = false ∧
    State.reset.lwrt = false ∧ State.reset.ri = true ∧ State.reset.toBit = true ∧ State.reset.pdBit = true ∧
    State.reset.por = false ∧ State.reset.asleep = false) ∧
  (∀ s : State, ∃ s', exec .reset s = .next s' ∧ ResetColumn s s' ∧ s'.toBit = s.toBit ∧ s'.bor = s.bor)

/-! Data addresses, reads and writes -/

/-- 20_memory.md R100: `EA(f, a)`. -/
def Obligations.EffectiveAddress : Prop :=
  ∀ (f : Byte) (s : State),
    (f.toNat < s.cfg.accessSplit.toNat → (ea f .access s).toNat = f.toNat) ∧
    (s.cfg.accessSplit.toNat ≤ f.toNat → (ea f .access s).toNat = 0xF00 + f.toNat) ∧
    (ea f .banked s).toNat = 256 * s.bsr.toNat + f.toNat

/-- 20_memory.md R102: the five indirect forms of each FSR, at their addresses of 10_state.md R60, wherever R107 does not
refuse the target (one of its twelve addresses; for the forms that modify the FSR, that FSR's own two bytes); any other
address stands for itself. -/
def Obligations.IndirectForms : Prop :=
  ∀ s : State, s.cfg.sfrMap = r60Map →
    (∀ p ∈ [(FsrIdx.f0, 0xFEF#12), (FsrIdx.f1, 0xFE7#12), (FsrIdx.f2, 0xFDF#12)],
      s.fsr p.1 ∉ otherIndirect → resolve p.2 s = .next ⟨s.fsr p.1, s⟩) ∧
    (∀ p ∈ [(FsrIdx.f0, 0xFEE#12, 0xFE9#12, 0xFEA#12), (FsrIdx.f1, 0xFE6#12, 0xFE1#12, 0xFE2#12),
        (FsrIdx.f2, 0xFDE#12, 0xFD9#12, 0xFDA#12)],
      s.fsr p.1 ∉ otherIndirect → s.fsr p.1 ≠ p.2.2.1 → s.fsr p.1 ≠ p.2.2.2 →
        resolve p.2.1 s = .next ⟨s.fsr p.1, s.setFsr p.1 (s.fsr p.1 + 1)⟩) ∧
    (∀ p ∈ [(FsrIdx.f0, 0xFED#12, 0xFE9#12, 0xFEA#12), (FsrIdx.f1, 0xFE5#12, 0xFE1#12, 0xFE2#12),
        (FsrIdx.f2, 0xFDD#12, 0xFD9#12, 0xFDA#12)],
      s.fsr p.1 ∉ otherIndirect → s.fsr p.1 ≠ p.2.2.1 → s.fsr p.1 ≠ p.2.2.2 →
        resolve p.2.1 s = .next ⟨s.fsr p.1, s.setFsr p.1 (s.fsr p.1 - 1)⟩) ∧
    (∀ p ∈ [(FsrIdx.f0, 0xFEC#12, 0xFE9#12, 0xFEA#12), (FsrIdx.f1, 0xFE4#12, 0xFE1#12, 0xFE2#12),
        (FsrIdx.f2, 0xFDC#12, 0xFD9#12, 0xFDA#12)],
      s.fsr p.1 + 1 ∉ otherIndirect → s.fsr p.1 + 1 ≠ p.2.2.1 → s.fsr p.1 + 1 ≠ p.2.2.2 →
        resolve p.2.1 s = .next ⟨s.fsr p.1 + 1, s.setFsr p.1 (s.fsr p.1 + 1)⟩) ∧
    (∀ p ∈ [(FsrIdx.f0, 0xFEB#12), (FsrIdx.f1, 0xFE3#12), (FsrIdx.f2, 0xFDB#12)],
      ∀ t : DataAddr, (t.toNat : Int) = ((s.fsr p.1).toNat + s.w.toInt) % 4096 →
        t ∉ otherIndirect → resolve p.2 s = .next ⟨t, s⟩) ∧
    (∀ ea : DataAddr, ¬(0xFDB ≤ ea.toNat ∧ ea.toNat ≤ 0xFDF) → ¬(0xFE3 ≤ ea.toNat ∧ ea.toNat ≤ 0xFE7) →
      ¬(0xFEB ≤ ea.toNat ∧ ea.toNat ≤ 0xFEF) → resolve ea s = .next ⟨ea, s⟩)

/-- 20_memory.md R107: an indirect access whose target is INDFn reads 0 and writes nothing, with the flags of 0; whose
target is another indirect register, or the FSR it modifies, is refused. -/
def Obligations.IndirectTargets : Prop :=
  ∀ s : State, SpecMap s.cfg →
    (∀ t ∈ [0xFEF#12, 0xFE7#12, 0xFDF#12], ∀ (v : Byte) (flag : Bool),
      memRead t flag s = .next ⟨0, s⟩ ∧ memWrite t v flag s = .next s) ∧
    (∀ (f : Byte) (a : RamSel), resolvable (ea f a s) s = true →
      fTarget f a s ∈ [0xFEF#12, 0xFE7#12, 0xFDF#12] →
      ∃ s', exec (.movf f .w a) s = .next s' ∧ s'.w = 0 ∧ s'.flags.z = true ∧ s'.flags.n = false) ∧
    (∀ ea : DataAddr, ((0xFDB ≤ ea.toNat ∧ ea.toNat ≤ 0xFDF) ∨ (0xFE3 ≤ ea.toNat ∧ ea.toNat ≤ 0xFE7) ∨
        (0xFEB ≤ ea.toNat ∧ ea.toNat ≤ 0xFEF)) → targetOf ea s ∈ otherIndirect →
      resolve ea s = .refused (.indirectTargetUndefined ea (targetOf ea s))) ∧
    (∀ p ∈ [([0xFEE#12, 0xFED#12, 0xFEC#12], 0xFE9#12, 0xFEA#12), ([0xFE6#12, 0xFE5#12, 0xFE4#12], 0xFE1#12, 0xFE2#12),
        ([0xFDE#12, 0xFDD#12, 0xFDC#12], 0xFD9#12, 0xFDA#12)],
      ∀ ea ∈ p.1, (targetOf ea s = p.2.1 ∨ targetOf ea s = p.2.2) →
        resolve ea s = .refused (.indirectTargetUndefined ea (targetOf ea s)))

/-- 20_memory.md R104: what each resolved address reads as, in numbers. That with P_PERIPH = ports the read gives the
environment's byte and has no side effect is the model's choice (log 8). -/
def Obligations.MemReadTable : Prop :=
  ∀ s : State, SpecMap s.cfg →
    (∀ t wb, gprOk s.cfg t = true → memRead t wb s = .next ⟨Memory.read .data s.dm t.toNat, s⟩) ∧
    ReadsAs 0xFE8 s s.w.toNat ∧
    ReadsAs 0xFD8 s (16 * s.flags.n.toNat + 8 * s.flags.ov.toNat + 4 * s.flags.z.toNat + 2 * s.flags.dc.toNat +
      s.flags.c.toNat) ∧
    ReadsAs 0xFE0 s s.bsr.toNat ∧
    ReadsAs 0xFE9 s (s.fsr0.toNat % 256) ∧ ReadsAs 0xFEA s (s.fsr0.toNat / 256) ∧
    ReadsAs 0xFE1 s (s.fsr1.toNat % 256) ∧ ReadsAs 0xFE2 s (s.fsr1.toNat / 256) ∧
    ReadsAs 0xFD9 s (s.fsr2.toNat % 256) ∧ ReadsAs 0xFDA s (s.fsr2.toNat / 256) ∧
    ReadsAs 0xFFA s s.pclath.toNat ∧ ReadsAs 0xFFB s s.pclatu.toNat ∧
    ReadsAs 0xFFD s ((s.entry s.sp).toNat % 256) ∧ ReadsAs 0xFFE s ((s.entry s.sp).toNat / 256 % 256) ∧
    ReadsAs 0xFFF s ((s.entry s.sp).toNat / 65536) ∧
    ReadsAs 0xFFC s (128 * s.stkful.toNat + 64 * s.stkunf.toNat + s.sp.toNat) ∧
    ReadsAs 0xFF6 s (s.tblptr.toNat % 256) ∧ ReadsAs 0xFF7 s (s.tblptr.toNat / 256 % 256) ∧
    ReadsAs 0xFF8 s (s.tblptr.toNat / 65536) ∧
    ReadsAs 0xFF5 s s.tablat.toNat ∧ ReadsAs 0xFF4 s s.prodh.toNat ∧ ReadsAs 0xFF3 s s.prodl.toNat ∧
    ReadsAs 0xFF2 s (128 * s.gieh.toNat + 64 * s.giel.toNat + s.intcon50.toNat) ∧
    ReadsAs 0xFD0 s (128 * s.ipen.toNat + 64 * s.lwrt.toNat + 16 * s.ri.toNat + 8 * s.toBit.toNat +
      4 * s.pdBit.toNat + 2 * s.por.toNat + s.bor.toNat) ∧
    (s.cfg.pclAccess = .asR42 → ∀ wb, ∃ b : Byte, b.toNat = (s.pc.toNat + 2) % 256 ∧
      memRead 0xFF9 wb s = .next ⟨b, if wb then s else loadLatches s⟩) ∧
    (∀ t wb, unmapped s.cfg t = true →
      (s.cfg.periph = .refuse → memRead t wb s = .refused (.dataAddressNotModelled t)) ∧
      (s.cfg.periph = .ports → memRead t wb s = .next ⟨Memory.read .periph s.periphIn t.toNat, s⟩))

/-- 20_memory.md R105: what a write leaves, to every resolved address but STATUS, STKPTR, TOSx and PCL, which have
statements of their own (R108, R45, R48, R42). That with P_PERIPH = ports the write goes to `periphOut` and nowhere else
is the model's choice (log 8). -/
def Obligations.MemWriteTable : Prop :=
  ∀ (s : State) (v : Byte) (masked : Bool), SpecMap s.cfg →
    (∀ t, gprOk s.cfg t = true → memWrite t v masked s = .next (s.setDm (Memory.write .data s.dm t.toNat v))) ∧
    memWrite 0xFE8 v masked s = .next (s.setW v) ∧
    (∃ x : BitVec 4, x.toNat = v.toNat % 16 ∧ memWrite 0xFE0 v masked s = .next (s.setBsr x)) ∧
    (∀ p ∈ [(FsrIdx.f0, 0xFE9#12), (FsrIdx.f1, 0xFE1#12), (FsrIdx.f2, 0xFD9#12)], ∃ x : BitVec 12,
      x.toNat = 256 * ((s.fsr p.1).toNat / 256) + v.toNat ∧ memWrite p.2 v masked s = .next (s.setFsr p.1 x)) ∧
    (∀ p ∈ [(FsrIdx.f0, 0xFEA#12), (FsrIdx.f1, 0xFE2#12), (FsrIdx.f2, 0xFDA#12)], ∃ x : BitVec 12,
      x.toNat = 256 * (v.toNat % 16) + (s.fsr p.1).toNat % 256 ∧ memWrite p.2 v masked s = .next (s.setFsr p.1 x)) ∧
    memWrite 0xFFA v masked s = .next (s.setLatches s.pclatu v) ∧
    (∃ x : BitVec 5, x.toNat = v.toNat % 32 ∧ memWrite 0xFFB v masked s = .next (s.setLatches x s.pclath)) ∧
    (∃ x : BitVec 22, x.toNat = 256 * (s.tblptr.toNat / 256) + v.toNat ∧
      memWrite 0xFF6 v masked s = .next (s.setTblptr x)) ∧
    (∃ x : BitVec 22, x.toNat = 65536 * (s.tblptr.toNat / 65536) + 256 * v.toNat + s.tblptr.toNat % 256 ∧
      memWrite 0xFF7 v masked s = .next (s.setTblptr x)) ∧
    (∃ x : BitVec 22, x.toNat = 65536 * (v.toNat % 64) + s.tblptr.toNat % 65536 ∧
      memWrite 0xFF8 v masked s = .next (s.setTblptr x)) ∧
    memWrite 0xFF5 v masked s = .next (s.setTablat v) ∧
    memWrite 0xFF4 v masked s = .next { s with prodh := v } ∧
    memWrite 0xFF3 v masked s = .next { s with prodl := v } ∧
    (∃ x : BitVec 6, x.toNat = v.toNat % 64 ∧ memWrite 0xFF2 v masked s =
      .next { s with gieh := decide (128 ≤ v.toNat), giel := decide (64 ≤ v.toNat % 128), intcon50 := x }) ∧
    memWrite 0xFD0 v masked s = .next { s with
      ipen := decide (128 ≤ v.toNat), lwrt := s.lwrt || decide (64 ≤ v.toNat % 128),
      ri := decide (16 ≤ v.toNat % 32), por := decide (2 ≤ v.toNat % 4), bor := decide (v.toNat % 2 = 1) } ∧
    (∀ t, unmapped s.cfg t = true →
      (s.cfg.periph = .refuse → memWrite t v masked s = .refused (.dataAddressNotModelled t)) ∧
      (s.cfg.periph = .ports →
        memWrite t v masked s = .next { s with periphOut := Memory.write .periph s.periphOut t.toNat v }))

/-- 20_memory.md R108: STATUS as a destination, and CLRF STATUS as the rule's example. -/
def Obligations.StatusAsDestination : Prop :=
  ∀ (s : State) (v : Byte), SpecMap s.cfg →
    memWrite 0xFD8 v true s = .next s ∧
    memWrite 0xFD8 v false s = .next (s.setFlags
      ⟨decide (16 ≤ v.toNat % 32), decide (8 ≤ v.toNat % 16), decide (4 ≤ v.toNat % 8), decide (2 ≤ v.toNat % 4),
        decide (v.toNat % 2 = 1)⟩) ∧
    (s.cfg.accessSplit.toNat ≤ 0xD8 →
      exec (.clrf 0xD8 .access) s = .next ((s.setFlags { s.flags with z := true }).setPc (s.pc + 2)))

/-- 10_state.md R45 and R48: STKPTR and the top-of-stack registers as destinations. -/
def Obligations.StackRegistersAsDestinations : Prop :=
  ∀ (s : State) (v : Byte) (masked : Bool), SpecMap s.cfg →
    (∃ x : BitVec 5, x.toNat = v.toNat % 32 ∧ memWrite 0xFFC v masked s = .next
      (((s.setSp x).setStkful (s.stkful && decide (128 ≤ v.toNat))).setStkunf
        (s.stkunf && decide (64 ≤ v.toNat % 128)))) ∧
    (s.sp = 0 → ∀ t ∈ [0xFFF#12, 0xFFE#12, 0xFFD#12],
      memWrite t v masked s = .refused .tosAccessAtEmptyStack ∧ ReadsAs t s 0) ∧
    (s.sp ≠ 0 →
      (∃ x : BitVec 21, x.toNat = 256 * ((s.entry s.sp).toNat / 256) + v.toNat ∧
        memWrite 0xFFD v masked s = .next (s.setEntry s.sp x)) ∧
      (∃ x : BitVec 21, x.toNat = 65536 * ((s.entry s.sp).toNat / 65536) + 256 * v.toNat +
          (s.entry s.sp).toNat % 256 ∧
        memWrite 0xFFE v masked s = .next (s.setEntry s.sp x)) ∧
      (∃ x : BitVec 21, x.toNat = 65536 * (v.toNat % 32) + (s.entry s.sp).toNat % 65536 ∧
        memWrite 0xFFF v masked s = .next (s.setEntry s.sp x)))

/-- 10_state.md R42: reading PCL, the latches, writing PCL. -/
def Obligations.ProgramCounterLow : Prop :=
  ∀ s : State, SpecMap s.cfg → s.cfg.pclAccess = .asR42 →
    (∀ wb, ∃ (b h : Byte) (u : BitVec 5), b.toNat = (s.pc.toNat + 2) % 256 ∧
      h.toNat = (s.pc.toNat + 2) / 256 % 256 ∧ u.toNat = (s.pc.toNat + 2) / 65536 % 32 ∧
      memRead 0xFF9 wb s = .next ⟨b, if wb then s else s.setLatches u h⟩) ∧
    (∀ (v : Byte) (masked : Bool), ∃ p : ProgAddr,
      p.toNat = 65536 * s.pclatu.toNat + 256 * s.pclath.toNat + 2 * (v.toNat / 2) ∧
      memWrite 0xFF9 v masked s = .next (s.setPc p)) ∧
    (s.cfg.accessSplit.toNat ≤ 0xF9 → ∃ p : ProgAddr,
      p.toNat = 65536 * s.pclatu.toNat + 256 * s.pclath.toNat + 2 * ((s.w.toNat + (s.pc.toNat + 2)) % 256 / 2) ∧
      exec (.addwf 0xF9 .f .access) s =
        .next ((s.setFlags (sumFlags s.w (BitVec.ofNat 8 (s.pc.toNat + 2)) false)).setPc p)) ∧
    (∀ (i : Instr) (s' : State), s.cfg.edges = .stop → exec i s = .next s' →
      ((∃ k fast, i = .call k fast) ∨ (∃ n, i = .rcall n) ∨ (∃ k, i = .goto k) ∨ (∃ n, i = .bra n) ∨
        (∃ n, i ∈ [Instr.bc n, .bn n, .bnc n, .bnn n, .bnov n, .bnz n, .bov n, .bz n]) ∨
        (∃ fast, i = .retn fast) ∨ (∃ fast, i = .retfie fast) ∨ (∃ k, i = .retlw k)) →
      s'.pclath = s.pclath ∧ s'.pclatu = s.pclatu) ∧
    (∀ (level : Level) (s' : State), s.cfg.edges = .stop → enterInterrupt level s = .next s' →
      s'.pclath = s.pclath ∧ s'.pclatu = s.pclatu)

/-- General-purpose RAM is plain storage (20_memory.md R104, R105, R110): a write is read back, every other address
reads as before, nothing but data memory changes, and the canonical form is kept. -/
def Obligations.GprReadAfterWrite : Prop :=
  ∀ (s s' : State) (t : DataAddr) (v : Byte) (masked : Bool), Memory.wf .data s.dm = true → gprOk s.cfg t = true →
    memWrite t v masked s = .next s' →
    (∀ wb, memRead t wb s' = .next ⟨v, s'⟩) ∧ (∀ u, u ≠ t → s'.dmByte u = s.dmByte u) ∧
      Memory.wf .data s'.dm = true ∧ s' = s.setDm s'.dm

/-! Arithmetic -/

/-- 10_state.md R36: `ADD8` in integers, as an addition and as a subtraction, where C and DC set mean no borrow; R37:
`SetNZ`. -/
def Obligations.FlagArithmetic : Prop :=
  (∀ (x y : Byte) (c : Bool), add8 x y c = (sumByte x y c, sumFlags x y c)) ∧
  (∀ (p q : Byte) (c : Bool), add8 p (~~~q) c = (diffByte p q (!c), diffFlags p q (!c))) ∧
  (∀ (v : Byte) (fl : Flags), setNZ v fl = resultNZ v fl)

/-- 40_byte_oriented.md R201, R202, R212; 43_literal.md R310: the additions. -/
def Obligations.Additions : Prop :=
  ∀ (f : Byte) (d : Dest) (a : RamSel) (s : State),
    (canUse f d a s = true →
      (∃ s', exec (.addwf f d a) s = .next s' ∧
        ByteOutcome f d a true s (sumByte s.w (fValue f a s) false) (sumFlags s.w (fValue f a s) false) s') ∧
      (∃ s', exec (.addwfc f d a) s = .next s' ∧
        ByteOutcome f d a true s (sumByte s.w (fValue f a s) s.flags.c)
          (sumFlags s.w (fValue f a s) s.flags.c) s') ∧
      (∃ s', exec (.incf f d a) s = .next s' ∧
        ByteOutcome f d a true s (sumByte (fValue f a s) 1 false) (sumFlags (fValue f a s) 1 false) s')) ∧
    (∀ k, exec (.addlw k) s =
      .next (((s.setW (sumByte s.w k false)).setFlags (sumFlags s.w k false)).setPc (s.pc + 2)))

/-- 40_byte_oriented.md R209, R226, R227, R228; 43_literal.md R318: the subtractions. -/
def Obligations.Subtractions : Prop :=
  ∀ (f : Byte) (d : Dest) (a : RamSel) (s : State),
    (canUse f d a s = true →
      (∃ s', exec (.subwf f d a) s = .next s' ∧
        ByteOutcome f d a true s (diffByte (fValue f a s) s.w false) (diffFlags (fValue f a s) s.w false) s') ∧
      (∃ s', exec (.subwfb f d a) s = .next s' ∧
        ByteOutcome f d a true s (diffByte (fValue f a s) s.w (!s.flags.c))
          (diffFlags (fValue f a s) s.w (!s.flags.c)) s') ∧
      (∃ s', exec (.subfwb f d a) s = .next s' ∧
        ByteOutcome f d a true s (diffByte s.w (fValue f a s) (!s.flags.c))
          (diffFlags s.w (fValue f a s) (!s.flags.c)) s') ∧
      (∃ s', exec (.decf f d a) s = .next s' ∧
        ByteOutcome f d a true s (diffByte (fValue f a s) 1 false) (diffFlags (fValue f a s) 1 false) s')) ∧
    (∀ k, exec (.sublw k) s =
      .next (((s.setW (diffByte k s.w false)).setFlags (diffFlags k s.w false)).setPc (s.pc + 2)))

/-- 40_byte_oriented.md R220: NEGF, with either P_FLAGS_VARIANT. -/
def Obligations.Negation : Prop :=
  ∀ (f : Byte) (a : RamSel) (s : State), canUse f .f a s = true →
    ∃ s', exec (.negf f a) s = .next s' ∧
      (s.cfg.flagsVariant = .corrected →
        ByteOutcome f .f a true s (diffByte 0 (fValue f a s) false) (diffFlags 0 (fValue f a s) false) s') ∧
      (s.cfg.flagsVariant = .sourceLiteral →
        ByteOutcome f .f a false s (diffByte 0 (fValue f a s) false) s.flags s')

/-- 40_byte_oriented.md R203, R205, R215, R216, R229, R231: the logical operations, MOVF and SWAPF. -/
def Obligations.LogicalResults : Prop :=
  ∀ (f : Byte) (d : Dest) (a : RamSel) (s : State), canUse f d a s = true →
    (∃ s', exec (.andwf f d a) s = .next s' ∧
      ByteOutcome f d a true s (s.w &&& fValue f a s) (resultNZ (s.w &&& fValue f a s) s.flags) s') ∧
    (∃ s', exec (.xorwf f d a) s = .next s' ∧
      ByteOutcome f d a true s (s.w ^^^ fValue f a s) (resultNZ (s.w ^^^ fValue f a s) s.flags) s') ∧
    (∃ s', exec (.iorwf f d a) s = .next s' ∧
      (s.cfg.flagsVariant = .corrected →
        ByteOutcome f d a true s (s.w ||| fValue f a s) (resultNZ (s.w ||| fValue f a s) s.flags) s') ∧
      (s.cfg.flagsVariant = .sourceLiteral →
        ByteOutcome f d a false s (s.w ||| fValue f a s) s.flags s')) ∧
    (∃ (s' : State) (r : Byte), exec (.comf f d a) s = .next s' ∧ r.toNat = 255 - (fValue f a s).toNat ∧
      ByteOutcome f d a true s r (resultNZ r s.flags) s') ∧
    (∃ s', exec (.movf f d a) s = .next s' ∧
      ByteOutcome f d a true s (fValue f a s) (resultNZ (fValue f a s) s.flags) s') ∧
    (∃ (s' : State) (r : Byte), exec (.swapf f d a) s = .next s' ∧
      r.toNat = 16 * ((fValue f a s).toNat % 16) + (fValue f a s).toNat / 16 ∧
      ByteOutcome f d a false s r s.flags s')

/-- 40_byte_oriented.md R221 to R224: the rotates, in numbers; RLCF's DC and OV under `source_literal` are whatever the
machine gives. -/
def Obligations.Rotates : Prop :=
  ∀ (f : Byte) (d : Dest) (a : RamSel) (s : State), canUse f d a s = true →
    (∃ (s' : State) (r : Byte), exec (.rlncf f d a) s = .next s' ∧
      r.toNat = (fValue f a s).toNat * 2 % 256 + (fValue f a s).toNat / 128 ∧
      ByteOutcome f d a true s r (resultNZ r s.flags) s') ∧
    (∃ (s' : State) (r : Byte), exec (.rrncf f d a) s = .next s' ∧
      r.toNat = (fValue f a s).toNat / 2 + 128 * ((fValue f a s).toNat % 2) ∧
      ByteOutcome f d a true s r (resultNZ r s.flags) s') ∧
    (∃ (s' : State) (r : Byte), exec (.rrcf f d a) s = .next s' ∧
      r.toNat = (fValue f a s).toNat / 2 + 128 * s.flags.c.toNat ∧
      ByteOutcome f d a true s r { resultNZ r s.flags with c := decide ((fValue f a s).toNat % 2 = 1) } s') ∧
    (∃ (s' : State) (r : Byte), exec (.rlcf f d a) s = .next s' ∧
      r.toNat = (fValue f a s).toNat * 2 % 256 + s.flags.c.toNat ∧
      (s.cfg.flagsVariant = .corrected →
        ByteOutcome f d a true s r { resultNZ r s.flags with c := decide (128 ≤ (fValue f a s).toNat) } s') ∧
      (s.cfg.flagsVariant = .sourceLiteral → ∃ dc ov : Bool,
        ByteOutcome f d a true (s.setFreeCtr (s.freeCtr + 1)) r
          { resultNZ r s.flags with c := decide (128 ≤ (fValue f a s).toNat), dc := dc, ov := ov } s'))

/-- 40_byte_oriented.md R204, R218, R225: CLRF, MOVWF and SETF resolve once, do not read, and write; with the byte read
back where the target is general-purpose RAM. -/
def Obligations.WriteOnlyOperations : Prop :=
  ∀ (f : Byte) (a : RamSel) (s : State), canWrite f a s = true →
    ∀ p ∈ [(Instr.clrf f a, 0x00#8, true, { s.flags with z := true }), (.setf f a, 0xFF#8, false, s.flags),
        (.movwf f a, s.w, false, s.flags)],
      ∃ s', exec p.1 s = .next s' ∧
        memWrite (fTarget f a s) p.2.1 p.2.2.1
          (((afterResolve (ea f a s) s).setFlags p.2.2.2).setPc (s.pc + 2)) = .next s' ∧
        (gprOk s.cfg (fTarget f a s) = true → Memory.wf .data s.dm = true → s'.dmByte (fTarget f a s) = p.2.1)

/-- 30_encoding.md R152: where `Skip()` goes; over an unassigned word it is refused, and over the words 0xEE30 to 0xEE3F
too, which is the model's reading (log 16). -/
def Obligations.SkipRule : Prop :=
  ∀ s : State, fetchable s (s.pc + 2) = true →
    (isAssigned (wordAt s (s.pc + 2)) = true →
      (isTwoWordFirst (wordAt s (s.pc + 2)) = true → skipPc s = .next (s.pc + 6)) ∧
      (isTwoWordFirst (wordAt s (s.pc + 2)) = false → skipPc s = .next (s.pc + 4))) ∧
    (isAssigned (wordAt s (s.pc + 2)) = false →
      skipPc s = .refused (.unassignedOpcode (s.pc + 2) (wordAt s (s.pc + 2)))) ∧
    (∀ (f : Byte) (a : RamSel), canRead f a s = true → fValue f a s = 0 →
      isAssigned (wordAt s (s.pc + 2)) = false →
      exec (.tstfsz f a) s = .refused (.unassignedOpcode (s.pc + 2) (wordAt s (s.pc + 2))))

/-- 40_byte_oriented.md R206 to R208, R230; 41_bit_oriented.md R263, R264: the skips that only test. Nothing but the
operand's own side effect and the pc changes; the next word matters only where the skip is taken. -/
def Obligations.TestSkips : Prop :=
  ∀ (f : Byte) (b : BitVec 3) (a : RamSel) (s : State), canRead f a s = true →
    ∀ p ∈ [(Instr.cpfseq f a, decide ((fValue f a s).toNat = s.w.toNat)),
        (.cpfsgt f a, decide (s.w.toNat < (fValue f a s).toNat)),
        (.cpfslt f a, decide ((fValue f a s).toNat < s.w.toNat)),
        (.tstfsz f a, decide ((fValue f a s).toNat = 0)),
        (.btfsc f b a, decide ((fValue f a s).toNat / 2 ^ b.toNat % 2 = 0)),
        (.btfss f b a, decide ((fValue f a s).toNat / 2 ^ b.toNat % 2 = 1))],
      (p.2 = true → skippable s = true) →
      exec p.1 s = .next ((fState f a false s).setPc (if p.2 then skipTarget s else s.pc + 2))

/-- 40_byte_oriented.md R210, R211, R213, R214: the counting skips. The result is stored whether or not the skip is
taken; no flag is written as a flag; the next word matters only where the skip is taken. A skip is the last word on the pc where the destination is PCL (the model's
choice, log 17). -/
def Obligations.CountingSkips : Prop :=
  ∀ (f : Byte) (d : Dest) (a : RamSel) (s : State), canUse f d a s = true →
    ∀ p ∈ [(Instr.decfsz f d a, 255, true), (.dcfsnz f d a, 255, false), (.incfsz f d a, 1, true),
        (.infsnz f d a, 1, false)],
      (decide (((fValue f a s).toNat + p.2.1) % 256 = 0) = p.2.2 → skippable s = true) →
      ∃ (s' s1 : State) (r : Byte), exec p.1 s = .next s' ∧
        r.toNat = ((fValue f a s).toNat + p.2.1) % 256 ∧
        ByteOutcome f d a false s r s.flags s1 ∧
        s' = if decide (r.toNat = 0) = p.2.2 then s1.setPc (skipTarget s) else s1

/-- 40_byte_oriented.md R217: MOVFF, source first; its refused destinations. -/
def Obligations.MoveFileToFile : Prop :=
  ∀ (fs fd : DataAddr) (s : State),
    let ts := targetOf fs s
    let v := valueAt ts (afterResolve fs s)
    let s1 := afterRead ts false (afterResolve fs s)
    let td := targetOf fd s1
    s.cfg.sfrMap = r60Map → resolvable fs s = true → readable s.cfg ts = true → resolvable fd s1 = true →
      (td ∈ [0xFF9#12, 0xFFF#12, 0xFFE#12, 0xFFD#12] →
        exec (.movff fs fd) s = .refused (.forbiddenMovffDestination td)) ∧
      (td ∉ [0xFF9#12, 0xFFF#12, 0xFFE#12, 0xFFD#12] → writable s td = true →
        ∃ s', exec (.movff fs fd) s = .next s' ∧
          memWrite td v false ((afterResolve fd s1).setPc (s.pc + 4)) = .next s' ∧
          (gprOk s.cfg td = true → Memory.wf .data s.dm = true → s'.dmByte td = v))

/-- 40_byte_oriented.md R219, 43_literal.md R316: the unsigned products in PRODH:PRODL, WREG and `f` unchanged. -/
def Obligations.Products : Prop :=
  ∀ (f : Byte) (a : RamSel) (k : Byte) (s : State),
    (canRead f a s = true → ∃ h l : Byte, 256 * h.toNat + l.toNat = s.w.toNat * (fValue f a s).toNat ∧
      exec (.mulwf f a) s = .next { fState f a false s with prodh := h, prodl := l, pc := s.pc + 2 }) ∧
    (∃ h l : Byte, 256 * h.toNat + l.toNat = s.w.toNat * k.toNat ∧
      exec (.mullw k) s = .next { s with prodh := h, prodl := l, pc := s.pc + 2 })

/-- 41_bit_oriented.md R261, R262, R265: BCF, BSF, BTG write the whole byte back with bit `b` cleared, set, toggled. -/
def Obligations.BitWrites : Prop :=
  ∀ (f : Byte) (b : BitVec 3) (a : RamSel) (s : State), canUse f .f a s = true →
    ∀ p ∈ [(Instr.bcf f b a, false), (.bsf f b a, true), (.btg f b a, !(fValue f a s).getLsbD b.toNat)],
      ∃ (s' : State) (r : Byte), exec p.1 s = .next s' ∧ r.getLsbD b.toNat = p.2 ∧
        (∀ k, k ≠ b.toNat → r.getLsbD k = (fValue f a s).getLsbD k) ∧
        ByteOutcome f .f a false s r s.flags s'

/-- The frame of every byte- and bit-oriented instruction that writes WREG or its operand, MOVFF among them: but for the
operand's own side effect (`fState`), the flags, the pc and the model's counter of free values, only the destination
changes: with `d = 0` WREG, with `d = 1` the byte or register at the target, computed as the meaning computes it. -/
def Obligations.FileRegisterFrame : Prop :=
  ∀ (f : Byte) (d : Dest) (b : BitVec 3) (a : RamSel) (s s' : State),
    (∀ i ∈ [Instr.addwf f d a, .addwfc f d a, .andwf f d a, .comf f d a, .decf f d a, .decfsz f d a, .dcfsnz f d a,
        .incf f d a, .incfsz f d a, .infsnz f d a, .iorwf f d a, .movf f d a, .rlcf f d a, .rlncf f d a, .rrcf f d a,
        .rrncf f d a, .subfwb f d a, .subwf f d a, .subwfb f d a, .swapf f d a, .xorwf f d a],
      exec i s = .next s' →
        DestFrame d (fTarget f a s)
          ((((fState f a (d == .f) s).setFlags s'.flags).setPc s'.pc).setFreeCtr s'.freeCtr) s') ∧
    (∀ i ∈ [Instr.negf f a, .bcf f b a, .bsf f b a, .btg f b a], exec i s = .next s' →
      WriteFrame (fTarget f a s) (((fState f a true s).setFlags s'.flags).setPc s'.pc) s') ∧
    (∀ i ∈ [Instr.clrf f a, .setf f a, .movwf f a], exec i s = .next s' →
      WriteFrame (fTarget f a s) (((afterResolve (ea f a s) s).setFlags s'.flags).setPc s'.pc) s') ∧
    (∀ fs fd : DataAddr, exec (.movff fs fd) s = .next s' →
      WriteFrame (targetOf fd (afterRead (targetOf fs s) false (afterResolve fs s)))
        ((afterResolve fd (afterRead (targetOf fs s) false (afterResolve fs s))).setPc s'.pc) s')

/-! Control -/

/-- 42_control.md R270 to R279: the relative targets, modulo 2^21; the branches change nothing but the pc, on the flags
before the instruction. -/
def Obligations.Branches : Prop :=
  ∀ (n : BitVec 8) (m : BitVec 11) (s : State),
    (∀ p ∈ [(Instr.bc n, s.flags.c), (.bn n, s.flags.n), (.bnc n, !s.flags.c), (.bnn n, !s.flags.n),
        (.bnov n, !s.flags.ov), (.bnz n, !s.flags.z), (.bov n, s.flags.ov), (.bz n, s.flags.z)],
      ∃ t : ProgAddr, (t.toNat : Int) = (s.pc.toNat + 2 + if p.2 then 2 * n.toInt else 0) % 2 ^ 21 ∧
        exec p.1 s = .next (s.setPc t)) ∧
    (∃ t : ProgAddr, (t.toNat : Int) = (s.pc.toNat + 2 + 2 * m.toInt) % 2 ^ 21 ∧
      exec (.bra m) s = .next (s.setPc t))

/-- 42_control.md R281, R283 to R285, R293, 43_literal.md R313 to R315: GOTO, the two NOPs, CLRWDT, SLEEP, LFSR (with
`ff = 11` stopped or a NOP by P_UNASSIGNED), MOVLB, MOVLW. -/
def Obligations.JumpsNopsLoadsAndPower : Prop :=
  ∀ s : State,
    exec .clrwdt s = .next { s with toBit := true, pdBit := true, pc := s.pc + 2 } ∧
    exec .sleep s = .next { s with toBit := true, pdBit := false, asleep := true, pc := s.pc + 2 } ∧
    (∀ k : BitVec 20, ∃ t : ProgAddr, t.toNat = 2 * k.toNat ∧ exec (.goto k) s = .next (s.setPc t)) ∧
    exec .nop s = .next (s.setPc (s.pc + 2)) ∧
    (∀ x, exec (.nop2 x) s = .next (s.setPc (s.pc + 2))) ∧
    (∀ k, exec (.lfsr 0 k) s = .next { s with fsr0 := k, pc := s.pc + 4 } ∧
      exec (.lfsr 1 k) s = .next { s with fsr1 := k, pc := s.pc + 4 } ∧
      exec (.lfsr 2 k) s = .next { s with fsr2 := k, pc := s.pc + 4 } ∧
      (s.cfg.unassigned = .refuse → ∃ w, exec (.lfsr 3 k) s = .refused (.unassignedOpcode s.pc w)) ∧
      (s.cfg.unassigned = .nop → exec (.lfsr 3 k) s = .next (s.setPc (s.pc + 2)))) ∧
    (∀ k, exec (.movlb k) s = .next { s with bsr := k, pc := s.pc + 2 }) ∧
    (∀ k, exec (.movlw k) s = .next { s with w := k, pc := s.pc + 2 })

/-- 10_state.md R46: `Push`, with the model's `edges = stop`. The rule's SP <= 29, SP = 30 and SP = 31 are the cases of
P_STACK_DEPTH = 31; that another depth shifts them is the model's reading (log 5). -/
def Obligations.PushRule : Prop :=
  ∀ (v : BitVec 21) (s : State) (k : State → Res State), s.cfg.edges = .stop →
    (canPush s = true → ∃ s1, Pushed v s s1 ∧ pushThen v s k = k s1) ∧
    (fills s = true → s.cfg.stvren = true → pushThen v s k = .fault .stackFullReset) ∧
    (full s = true → pushThen v s k = .fault .stackOverflow)

/-- 10_state.md R47: `Pop`, with the model's `edges = stop`. -/
def Obligations.PopRule : Prop :=
  ∀ (s : State) (k : ProgAddr → State → Res State), s.cfg.edges = .stop →
    (s.sp ≠ 0 → ∃ p : ProgAddr, p.toNat = 2 * ((s.entry s.sp).toNat / 2) ∧
      popThen s k = k p (s.setSp (s.sp - 1))) ∧
    (s.sp = 0 → popThen s k = .fault .stackUnderflow)

/-- 42_control.md R280, R287, R288: CALL, PUSH and RCALL, each pushing its return address; a fast CALL saves W, STATUS
and BSR. That the room on the stack follows a P_STACK_DEPTH other than 31 is the model's reading (log 5). -/
def Obligations.CallsAndPush : Prop :=
  ∀ s : State, canPush s = true →
    (∀ k : BitVec 20, ∃ (s1 : State) (t : ProgAddr), Pushed (s.pc + 4) s s1 ∧ t.toNat = 2 * k.toNat ∧
      exec (.call k false) s = .next (s1.setPc t) ∧
      ∃ b : Byte, b.toNat = 16 * s.flags.n.toNat + 8 * s.flags.ov.toNat + 4 * s.flags.z.toNat +
          2 * s.flags.dc.toNat + s.flags.c.toNat ∧
        exec (.call k true) s =
          .next { s1 with pc := t, ws := s.w, statuss := b, bsrs := s.bsr.zeroExtend 8 }) ∧
    (∃ s1, Pushed (s.pc + 2) s s1 ∧ exec .push s = .next (s1.setPc (s.pc + 2)) ∧
      ∀ n : BitVec 11, ∃ t : ProgAddr, (t.toNat : Int) = (s.pc.toNat + 2 + 2 * n.toInt) % 2 ^ 21 ∧
        exec (.rcall n) s = .next (s1.setPc t))

/-- 42_control.md R286, R290 to R292: POP, RETURN, RETLW and RETFIE, where the stack is not empty. -/
def Obligations.ReturnsAndPop : Prop :=
  ∀ s : State, s.sp ≠ 0 → ∃ p : ProgAddr, p.toNat = 2 * ((s.entry s.sp).toNat / 2) ∧
    exec .pop s = .next { s with sp := s.sp - 1, pc := s.pc + 2 } ∧
    exec (.retn false) s = .next { s with sp := s.sp - 1, pc := p } ∧
    (∀ k, exec (.retlw k) s = .next { s with sp := s.sp - 1, pc := p, w := k }) ∧
    (∃ fl : Flags, fl.n = s.statuss.getLsbD 4 ∧ fl.ov = s.statuss.getLsbD 3 ∧ fl.z = s.statuss.getLsbD 2 ∧
      fl.dc = s.statuss.getLsbD 1 ∧ fl.c = s.statuss.getLsbD 0 ∧
      ∃ b : BitVec 4, b.toNat = s.bsrs.toNat % 16 ∧
        exec (.retn true) s = .next { s with sp := s.sp - 1, pc := p, w := s.ws, flags := fl, bsr := b } ∧
        exec (.retfie true) s = .next { s with
          sp := s.sp - 1, pc := p, w := s.ws, flags := fl, bsr := b
          gieh := s.gieh || !s.ipen || !s.gieh
          giel := s.giel || (s.ipen && s.gieh) }) ∧
    exec (.retfie false) s = .next { s with
      sp := s.sp - 1, pc := p, gieh := s.gieh || !s.ipen || !s.gieh, giel := s.giel || (s.ipen && s.gieh) }

/-- 60_exceptions.md R376, R351, R360: every push onto a full stack, every filling push with P_STVREN, interrupt entry's
among them, and every pop of the empty stack is a fault of the model with `edges = stop`. That full and
filling follow a P_STACK_DEPTH other than 31 is the model's reading (log 5). -/
def Obligations.StackFaults : Prop :=
  ∀ s : State, s.cfg.edges = .stop →
    (full s = true →
      (∀ i : Instr, (i = .push ∨ (∃ n, i = .rcall n) ∨ ∃ k fast, i = .call k fast) →
        exec i s = .fault .stackOverflow) ∧
      ∀ level, enterInterrupt level s = .fault .stackOverflow) ∧
    (fills s = true → s.cfg.stvren = true →
      (∀ i : Instr, (i = .push ∨ (∃ n, i = .rcall n) ∨ ∃ k fast, i = .call k fast) →
        exec i s = .fault .stackFullReset) ∧
      ∀ level, enterInterrupt level s = .fault .stackFullReset) ∧
    (s.sp = 0 →
      ∀ i : Instr, (i = .pop ∨ (∃ k, i = .retlw k) ∨ (∃ fast, i = .retn fast) ∨ ∃ fast, i = .retfie fast) →
        exec i s = .fault .stackUnderflow)

/-- 42_control.md R282: DAW, both variants, in numbers. -/
def Obligations.DecimalAdjust : Prop :=
  ∀ s : State, ∃ (r : Byte) (c : Bool),
    exec .daw s = .next { s with w := r, flags := { s.flags with c := c }, pc := s.pc + 2 } ∧
    (s.cfg.dawVariant = .propagate →
      let t1 := s.w.toNat + if 9 < s.w.toNat % 16 ∨ s.flags.dc = true then 0x06 else 0
      let t2 := t1 + if 9 < t1 / 16 % 16 ∨ s.flags.c = true then 0x60 else 0
      r.toNat = t2 % 256 ∧ c = (s.flags.c || decide (0x100 ≤ t2))) ∧
    (s.cfg.dawVariant = .isolated →
      let lo := s.w.toNat % 16 + if 9 < s.w.toNat % 16 ∨ s.flags.dc = true then 6 else 0
      let hi := s.w.toNat / 16 + if 9 < s.w.toNat / 16 ∨ s.flags.c = true then 6 else 0
      r.toNat = 16 * (hi % 16) + lo % 16 ∧ c = (s.flags.c || decide (16 ≤ hi)))

/-- 42_control.md R282's intended use (variant `propagate`): after the addition of two packed-BCD bytes DAW leaves the
decimal sum, with C its hundreds digit, but for the sums whose tens digits add to 15 and whose units carry without
reaching 16: there the rule's high-digit test sees 0 after the low digit's carry, and the high digit stays 0. -/
def Obligations.BcdAdditionAdjusts : Prop :=
  ∀ (s : State) (k : Byte) (x y : Nat), s.cfg.dawVariant = .propagate → x < 100 → y < 100 →
    s.w.toNat = 16 * (x / 10) + x % 10 → k.toNat = 16 * (y / 10) + y % 10 →
    ∃ s1 s2, exec (.addlw k) s = .next s1 ∧ exec .daw s1 = .next s2 ∧ s2.flags.c = decide (100 ≤ x + y) ∧
      s2.w.toNat =
        (if x / 10 + y / 10 = 15 ∧ 10 ≤ x % 10 + y % 10 ∧ x % 10 + y % 10 ≤ 15 then 0
          else 16 * ((x + y) % 100 / 10)) + (x + y) % 10

/-- 43_literal.md R311, R312, R319: ANDLW, IORLW, XORLW. -/
def Obligations.LiteralLogic : Prop :=
  ∀ (k : Byte) (s : State),
    ∀ p ∈ [(Instr.andlw k, s.w &&& k), (.iorlw k, s.w ||| k), (.xorlw k, s.w ^^^ k)],
      exec p.1 s = .next (((s.setW p.2).setFlags (resultNZ p.2 s.flags)).setPc (s.pc + 2))

/-! Table operations -/

/-- 44_table.md R331 to R334, R336: table reads inside program memory: the byte at the pointer, the pointer's four
modes. -/
def Obligations.TableReads : Prop :=
  ∀ (s : State) (p q : BitVec 22), (p.toNat = (s.tblptr.toNat + 1) % 2 ^ 22) →
    (q.toNat : Int) = ((s.tblptr.toNat : Int) - 1) % 2 ^ 22 →
    (s.tblptr.toNat < 2 ^ 21 → pmOk s.cfg (BitVec.ofNat 21 s.tblptr.toNat) = true →
      exec .tblrd s = .next { s with tablat := Memory.read .program s.pm s.tblptr.toNat, pc := s.pc + 2 } ∧
      exec .tblrdPostInc s =
        .next { s with tablat := Memory.read .program s.pm s.tblptr.toNat, tblptr := p, pc := s.pc + 2 } ∧
      exec .tblrdPostDec s =
        .next { s with tablat := Memory.read .program s.pm s.tblptr.toNat, tblptr := q, pc := s.pc + 2 }) ∧
    (p.toNat < 2 ^ 21 → pmOk s.cfg (BitVec.ofNat 21 p.toNat) = true →
      exec .tblrdPreInc s = .next { s with tablat := Memory.read .program s.pm p.toNat, tblptr := p, pc := s.pc + 2 })

/-- 44_table.md R335, R337 to R340: table writes with LWRT = 0: the holding register of the pointer's bit 0, the
pointer's four modes, nothing else. -/
def Obligations.TableWrites : Prop :=
  ∀ (s : State) (p q : BitVec 22), s.lwrt = false → (p.toNat = (s.tblptr.toNat + 1) % 2 ^ 22) →
    (q.toNat : Int) = ((s.tblptr.toNat : Int) - 1) % 2 ^ 22 →
    (s.tblptr.toNat < 2 ^ 21 →
      ∃ h0 h1 : Byte, h0 = (if s.tblptr.toNat % 2 = 0 then s.tablat else s.hold0) ∧
        h1 = (if s.tblptr.toNat % 2 = 1 then s.tablat else s.hold1) ∧
        exec .tblwt s = .next { s with hold0 := h0, hold1 := h1, pc := s.pc + 2 } ∧
        exec .tblwtPostInc s = .next { s with hold0 := h0, hold1 := h1, tblptr := p, pc := s.pc + 2 } ∧
        exec .tblwtPostDec s = .next { s with hold0 := h0, hold1 := h1, tblptr := q, pc := s.pc + 2 }) ∧
    (p.toNat < 2 ^ 21 →
      ∃ h0 h1 : Byte, h0 = (if p.toNat % 2 = 0 then s.tablat else s.hold0) ∧
        h1 = (if p.toNat % 2 = 1 then s.tablat else s.hold1) ∧
        exec .tblwtPreInc s = .next { s with hold0 := h0, hold1 := h1, tblptr := p, pc := s.pc + 2 })

/-- 44_table.md R330, R331, R335: the table accesses that stop, with `edges = stop`; a pre-increment is judged on the
incremented pointer. -/
def Obligations.TableStops : Prop :=
  ∀ s : State, s.cfg.edges = .stop →
    (∀ i ∈ [Instr.tblrd, .tblrdPostInc, .tblrdPostDec],
      (2 ^ 21 ≤ s.tblptr.toNat → exec i s = .refused (.tableAccessConfigSpace s.tblptr)) ∧
      (s.tblptr.toNat < 2 ^ 21 → pmOk s.cfg (BitVec.ofNat 21 s.tblptr.toNat) = false →
        exec i s = .refused (.tableReadOutsideProgramMemory (BitVec.ofNat 21 s.tblptr.toNat)))) ∧
    (∀ i ∈ [Instr.tblwt, .tblwtPostInc, .tblwtPostDec],
      (2 ^ 21 ≤ s.tblptr.toNat → exec i s = .refused (.tableAccessConfigSpace s.tblptr)) ∧
      (s.tblptr.toNat < 2 ^ 21 → s.lwrt = true → exec i s = .refused (.tableWriteNotModelled s.tblptr))) ∧
    (∀ p : BitVec 22, p = s.tblptr + 1 →
      (2 ^ 21 ≤ p.toNat → exec .tblrdPreInc s = .refused (.tableAccessConfigSpace p) ∧
        exec .tblwtPreInc s = .refused (.tableAccessConfigSpace p)) ∧
      (p.toNat < 2 ^ 21 → s.lwrt = true → exec .tblwtPreInc s = .refused (.tableWriteNotModelled p)) ∧
      (p.toNat < 2 ^ 21 → pmOk s.cfg (BitVec.ofNat 21 p.toNat) = false →
        exec .tblrdPreInc s = .refused (.tableReadOutsideProgramMemory (BitVec.ofNat 21 p.toNat))))

/-! Interrupts, standby, resets -/

/-- 60_exceptions.md R361, R370 (c): when a boundary takes an interrupt, and at which level, the oracle's request or one
that a wake-up latched; and that the step then is the entry, before the instruction at the pc. That the entry is a step of
its own (log 27), that one input of the list is used up (log 7) and that a latched request is tested again here (log 13)
are the model's choices. -/
def Obligations.InterruptRecognition : Prop :=
  (∀ (h l : Bool) (s : State),
    (irqLevel h l s = some .high ↔
      (s.ipen = false ∧ (h = true ∨ l = true) ∧ s.gieh = true) ∨ (s.ipen = true ∧ h = true ∧ s.gieh = true)) ∧
    (irqLevel h l s = some .low ↔
      s.ipen = true ∧ ¬(h = true ∧ s.gieh = true) ∧ l = true ∧ s.gieh = true ∧ s.giel = true)) ∧
  (∀ (s : State) (i : Input) (rest : List Input) (level : Level), s.inputs = i :: rest → i.reset = none →
    i.wdtTimeout = false → s.asleep = false →
    irqLevel (i.irqHigh || s.heldHigh) (i.irqLow || s.heldLow) s = some level →
    step s = enterInterrupt level { s with
      inputs := rest, periphIn := Memory.writeAll .periph s.periphIn i.periph, heldHigh := false, heldLow := false }) ∧
  (∀ (s : State) (level : Level), s.inputs = [] → s.asleep = false →
    irqLevel s.heldHigh s.heldLow s = some level →
    step s = enterInterrupt level { s with heldHigh := false, heldLow := false })

/-- 60_exceptions.md R360: interrupt entry where the stack has room: the return address pushed, W, STATUS and BSR in the
shadows, the level's enable bit cleared, the vector, awake; nothing else changes. That the room on the
stack follows a P_STACK_DEPTH other than 31 is the model's reading (log 5). -/
def Obligations.InterruptEntry : Prop :=
  ∀ (level : Level) (s : State), canPush s = true →
    ∃ (s1 : State) (b : Byte), Pushed s.pc s s1 ∧
      b.toNat = 16 * s.flags.n.toNat + 8 * s.flags.ov.toNat + 4 * s.flags.z.toNat + 2 * s.flags.dc.toNat +
        s.flags.c.toNat ∧
      (s.ipen = false ∨ level = .high → enterInterrupt level s = .next { s1 with
        ws := s.w, statuss := b, bsrs := s.bsr.zeroExtend 8, gieh := false, pc := 0x000008, asleep := false }) ∧
      (s.ipen = true ∧ level = .low → enterInterrupt level s = .next { s1 with
        ws := s.w, statuss := b, bsrs := s.bsr.zeroExtend 8, giel := false, pc := 0x000018, asleep := false })

/-- 60_exceptions.md R360, R364; 42_control.md R290: an interrupt taken under the condition of R361 and left at once by
RETFIE 1 restores the pc, W, the flags, BSR, SP and the enable bits; only the shadows, the slot above the top of the
stack and STKFUL may differ. That the room on the stack follows a P_STACK_DEPTH other than 31 is the model's reading (log
5). -/
def Obligations.EntryThenRetfieRestores : Prop :=
  ∀ (h l : Bool) (level : Level) (s : State), s.pc.getLsbD 0 = false → s.asleep = false → canPush s = true →
    irqLevel h l s = some level →
    ∃ s1 s2, enterInterrupt level s = .next s1 ∧ exec (.retfie true) s1 = .next s2 ∧
      (∀ j, j ≠ s.sp + 1 → s2.entry j = s.entry j) ∧ s2.stkful = (s.stkful || fills s) ∧
      s2 = { s with
        ws := s2.ws, statuss := s2.statuss, bsrs := s2.bsrs, stack := s2.stack, stkful := s2.stkful }

/-- 42_control.md R280, R292; 10_state.md R50: RETURN 1 after CALL k, 1 continues after the CALL with W, the flags and
BSR of the caller, whatever the subroutine left in them. That the room on the stack follows a P_STACK_DEPTH other than 31
is the model's reading (log 5). -/
def Obligations.FastCallReturnRestores : Prop :=
  ∀ (k : BitVec 20) (s : State) (w : Byte) (fl : Flags) (bsr : BitVec 4), s.pc.getLsbD 0 = false →
    canPush s = true →
    ∃ s1 s2, exec (.call k true) s = .next s1 ∧
      exec (.retn true) { s1 with w := w, flags := fl, bsr := bsr } = .next s2 ∧
      s2.pc = s.pc + 4 ∧ s2.sp = s.sp ∧ s2.w = s.w ∧ s2.flags = s.flags ∧ s2.bsr = s.bsr ∧ s2.dm = s.dm

/-- 60_exceptions.md R363: after a high-level entry no request is taken, after a low-level one only a high one; so
nesting is at most two deep. -/
def Obligations.NestingIsTwoDeep : Prop :=
  ∀ (s s1 : State) (h l : Bool), s.cfg.edges = .stop →
    (enterInterrupt .high s = .next s1 → irqLevel h l s1 = none) ∧
    (s.ipen = true → irqLevel false true s = some .low → enterInterrupt .low s = .next s1 →
      irqLevel h l s1 = (if h then some .high else none) ∧
      ∀ s2, enterInterrupt .high s1 = .next s2 → ∀ h' l', irqLevel h' l' s2 = none)

/-- 60_exceptions.md R370: in standby nothing happens without a wake-up event; an event wakes the core and the
instruction after SLEEP runs, TO cleared by the watchdog (the form of the step is the model's, log 13, log 14). -/
def Obligations.StandbyAndWakeUp : Prop :=
  ∀ s : State, s.asleep = true → s.heldHigh = false → s.heldLow = false →
    (s.inputs = [] → step s = .next s) ∧
    (∀ (i : Input) (rest : List Input), s.inputs = i :: rest → i.reset = none → i.periph = [] →
      (i.wdtTimeout = false → i.irqHigh = false → i.irqLow = false → step s = .next { s with inputs := rest }) ∧
      (i.wdtTimeout = true → i.irqHigh = false → i.irqLow = false →
        step s = runInstr { s with inputs := rest, asleep := false, toBit := false }) ∧
      (i.wdtTimeout = false → (i.irqHigh = true ∨ i.irqLow = true) → irqLevel i.irqHigh i.irqLow s = none →
        step s = runInstr { s with inputs := rest, asleep := false }) ∧
      (i.wdtTimeout = false → irqLevel i.irqHigh i.irqLow s ≠ none →
        step s = runInstr { s with
          inputs := rest, asleep := false, heldHigh := i.irqHigh, heldLow := i.irqLow }))

/-- 70_reset_and_hazards.md R390, R391; 60_exceptions.md R372: a watchdog time-out while running, a master-clear and a
brown-out reset leave the RESET column of 10_state.md R70, but for TO = 0 after the watchdog and BOR = 0 after a
brown-out. That a reset goes before every other event of its boundary is the model's choice (log 15). -/
def Obligations.OutsideResets : Prop :=
  ∀ (s : State) (i : Input) (rest : List Input), s.inputs = i :: rest →
    (i.reset = none → i.wdtTimeout = true → s.asleep = false → ∃ s', step s = .next s' ∧
      ResetColumn s s' ∧ s'.toBit = false ∧ s'.bor = s.bor) ∧
    (i.reset = some .masterClear → ∃ s', step s = .next s' ∧
      ResetColumn s s' ∧ s'.toBit = s.toBit ∧ s'.bor = s.bor) ∧
    (i.reset = some .brownOut → ∃ s', step s = .next s' ∧
      ResetColumn s s' ∧ s'.toBit = s.toBit ∧ s'.bor = false)

/-! Stops -/

/-- 60_exceptions.md R353 steps 5 to 7, R351; 20_memory.md R106, R107; 10_state.md R48, D21: an instruction whose operand
cannot be used stops by name, whatever the next word is: an indirect target that `Resolve` refuses, an address that is
neither RAM nor a register, PCL in the cautious configuration, a top-of-stack register to be written while the stack is
empty (where no skip look-ahead, which goes before the write, is refused). For MOVFF the source goes first. -/
def Obligations.UnusableOperandsStop : Prop :=
  (∀ (i : Instr) (f : Byte) (a : RamSel) (s : State), fileOperand i = some (f, a) →
    (∀ r, resolve (ea f a s) s = .refused r → exec i s = .refused r) ∧
    (resolvable (ea f a s) s = true →
      (unmapped s.cfg (fTarget f a s) = true → s.cfg.periph = .refuse →
        exec i s = .refused (.dataAddressNotModelled (fTarget f a s))) ∧
      (SpecMap s.cfg → s.cfg.pclAccess = .refuse → fTarget f a s = 0xFF9 →
        exec i s = .refused (.pclAccessRefused 0xFF9)) ∧
      (SpecMap s.cfg → s.sp = 0 → fTarget f a s ∈ [0xFFF#12, 0xFFE#12, 0xFFD#12] → destAddr i s ≠ none →
        (assignsPc i = true → skippable s = true) → exec i s = .refused .tosAccessAtEmptyStack))) ∧
  (∀ (fs fd : DataAddr) (s : State),
    (∀ r, resolve fs s = .refused r → exec (.movff fs fd) s = .refused r) ∧
    (resolvable fs s = true →
      (unmapped s.cfg (targetOf fs s) = true → s.cfg.periph = .refuse →
        exec (.movff fs fd) s = .refused (.dataAddressNotModelled (targetOf fs s))) ∧
      (SpecMap s.cfg → s.cfg.pclAccess = .refuse → targetOf fs s = 0xFF9 →
        exec (.movff fs fd) s = .refused (.pclAccessRefused 0xFF9)) ∧
      (∀ s1, readable s.cfg (targetOf fs s) = true → s1 = afterRead (targetOf fs s) false (afterResolve fs s) →
        (∀ r, resolve fd s1 = .refused r → exec (.movff fs fd) s = .refused r) ∧
        (resolvable fd s1 = true → unmapped s.cfg (targetOf fd s1) = true → s.cfg.periph = .refuse →
          exec (.movff fs fd) s = .refused (.dataAddressNotModelled (targetOf fd s1))))))
end

