-- ==== Sys2Proof/Laws/Config.lean ====
section
/-! SUPPORT. The sizes of 00_scope.md R7: the one value of each field, and that the model's types have it. -/

namespace Sys2Proof

variable (c : Config)

@[simp] theorem Config.iw_val : c.iw.val = 16 := c.iw.property

@[simp] theorem Config.dw_val : c.dw.val = 8 := c.dw.property

@[simp] theorem Config.da_val : c.da.val = 12 := c.da.property

@[simp] theorem Config.banks_val : c.banks.val = 16 := c.banks.property

@[simp] theorem Config.pcw_val : c.pcw.val = 21 := c.pcw.property

@[simp] theorem Config.tblptrW_val : c.tblptrW.val = 22 := c.tblptrW.property

/-- The types of the machine have the widths its configuration names. -/
theorem Config.widths : Word = BitVec c.iw.val ∧ Byte = BitVec c.dw.val ∧ DataAddr = BitVec c.da.val ∧
    ProgAddr = BitVec c.pcw.val := by
  simp

/-- BSR names each bank (R7: P_BANKS is 2 to the width of BSR), and the banks make up the data addresses. -/
theorem Config.banks_of_bsr (s : Machine.State) :
    s.bsr.toNat < s.cfg.banks.val ∧ s.cfg.banks.val * 2 ^ s.cfg.dw.val = 2 ^ s.cfg.da.val := by
  have := s.bsr.isLt
  simp only [banks_val, dw_val, da_val]
  omega

/-- The pc and the table pointer stay within their widths. -/
theorem Config.pointers_fit (s : Machine.State) :
    s.pc.toNat < 2 ^ s.cfg.pcw.val ∧ s.tblptr.toNat < 2 ^ s.cfg.tblptrW.val := by
  have := s.pc.isLt
  have := s.tblptr.isLt
  simp only [pcw_val, tblptrW_val]
  omega

end Sys2Proof
end

