-- ==== Sys2Proof/Laws/Encode.lean ====
section
/-! SUPPORT. Words made of two bytes: what the decoder's tests and slices give on them. -/

namespace Sys2Proof

theorem getLsbD_byteAppend (h l : Byte) (i : Nat) :
    (h ++ l : Word).getLsbD i = if i < 8 then l.getLsbD i else h.getLsbD (i - 8) := by
  have := BitVec.getLsbD_append (x := h) (y := l) (i := i)
  simpa using this

theorem slice_high (h l : Byte) (k n : Nat) : (h ++ l : Word).extractLsb' (8 + k) n = h.extractLsb' k n := by
  apply BitVec.eq_of_getLsbD_eq
  intro i hi
  rw [BitVec.getLsbD_extractLsb', getLsbD_byteAppend, BitVec.getLsbD_extractLsb', if_neg (by omega)]
  congr 2
  omega

@[simp] theorem highByte_append (h l : Byte) : (h ++ l : Word).extractLsb' 8 8 = h := by
  rw [slice_high h l 0 8]
  apply BitVec.eq_of_getLsbD_eq
  intro i hi
  simp [hi]

@[simp] theorem lowByte_append (h l : Byte) : (h ++ l : Word).extractLsb' 0 8 = l := by
  apply BitVec.eq_of_getLsbD_eq
  intro i hi
  rw [BitVec.getLsbD_extractLsb', getLsbD_byteAppend]
  simp [hi]

/-- A word is its two bytes. -/
theorem append_bytes (w : Word) : w.extractLsb' 8 8 ++ w.extractLsb' 0 8 = w := by
  apply BitVec.eq_of_getLsbD_eq
  intro i hi
  rw [getLsbD_byteAppend, BitVec.getLsbD_extractLsb', BitVec.getLsbD_extractLsb']
  split
  · rename_i h
    simp [h]
  · have h1 : i - 8 < 8 := by omega
    have h2 : 8 + (i - 8) = i := by omega
    simp [h1, h2]

theorem lfsrPattern_append (h l : Byte) :
    (h ++ l : Word).extractLsb' 6 10 = 0b1110111000#10 ↔ h = 0xEE#8 ∧ l.extractLsb' 6 2 = 0#2 := by
  constructor
  · intro e
    constructor
    · have := congrArg (fun x : BitVec 10 => x.extractLsb' 2 8) e
      rw [← highByte_append h l]
      refine Eq.trans ?_ this
      apply BitVec.eq_of_getLsbD_eq
      intro i hi
      simp only [BitVec.getLsbD_extractLsb', hi, show 2 + i < 10 by omega, decide_true, Bool.true_and]
      congr 1
      omega
    · have := congrArg (fun x : BitVec 10 => x.extractLsb' 0 2) e
      refine Eq.trans ?_ this
      apply BitVec.eq_of_getLsbD_eq
      intro i hi
      simp only [BitVec.getLsbD_extractLsb', hi, show 0 + i < 10 by omega, decide_true, Bool.true_and,
        getLsbD_byteAppend]
      rw [if_pos (by omega)]
      congr 1
      omega
  · rintro ⟨rfl, e⟩
    apply BitVec.eq_of_getLsbD_eq
    intro i hi
    rw [BitVec.getLsbD_extractLsb', getLsbD_byteAppend]
    have : ∀ j < 2, l.getLsbD (6 + j) = false := fun j hj => by
      have := congrArg (fun x : BitVec 2 => x.getLsbD j) e
      simpa [BitVec.getLsbD_extractLsb', hj] using this
    rcases Nat.lt_or_ge i 2 with h2 | h2
    · rw [if_pos (by omega), this i h2]
      interval_cases i <;> rfl
    · rw [if_neg (by omega)]
      interval_cases i <;> rfl

/-- 30_encoding.md R150, by the bytes of the word. -/
theorem isTwoWordFirst_append (h l : Byte) :
    isTwoWordFirst (h ++ l) = (h.extractLsb' 4 4 == 0xC#4 || h.extractLsb' 1 7 == 0b1110110#7 || h == 0xEF#8
      || (h == 0xEE#8 && l.extractLsb' 6 2 == 0#2)) := by
  unfold isTwoWordFirst
  rw [slice_high h l 4 4, slice_high h l 1 7, highByte_append]
  congr 1
  rw [Bool.eq_iff_iff]
  simp only [beq_iff_eq, Bool.and_eq_true]
  exact lfsrPattern_append h l

/-- 30_encoding.md R160, by the bytes of the word. -/
theorem isAssigned_append (h l : Byte) : isAssigned (h ++ l) = (decodeHigh h l 0xF000#16).isSome := by
  unfold isAssigned
  rw [highByte_append, lowByte_append]

end Sys2Proof
end

