-- ==== Sys2Proof/Laws/Memory.lean ====
section
/-! SUPPORT. Memories: a read after a write, and the canonical form that every write keeps. -/

namespace Sys2Proof.Machine

variable {sp : Space}

@[simp] theorem Memory.read_nil (a : Nat) : Memory.read sp [] a = unlisted sp := rfl

theorem Memory.read_cons (c : Host.Cell) (m : Memory) (a : Nat) :
    Memory.read sp (c :: m) a = if c.1 = a then c.2 else Memory.read sp m a := rfl

theorem Memory.wfFrom_mono {lo lo' : Nat} (h : lo' ≤ lo) (m : Memory) (hm : Memory.wfFrom sp lo m = true) :
    Memory.wfFrom sp lo' m = true := by
  cases m with
  | nil => rfl
  | cons c m =>
    simp only [Memory.wfFrom, Bool.and_eq_true, decide_eq_true_eq] at hm ⊢
    exact ⟨⟨by omega, hm.1.2⟩, hm.2⟩

theorem Memory.read_below {lo : Nat} (m : Memory) (hm : Memory.wfFrom sp lo m = true) (a : Nat) (h : a < lo) :
    Memory.read sp m a = unlisted sp := by
  induction m generalizing lo with
  | nil => rfl
  | cons c m ih =>
    simp only [Memory.wfFrom, Bool.and_eq_true, decide_eq_true_eq] at hm
    rw [Memory.read_cons, if_neg (by omega)]
    exact ih hm.2 (by omega)

theorem Memory.read_put_ne (m : Memory) (a b : Nat) (v : Byte) (h : b ≠ a) :
    Memory.read sp (Memory.put sp a v m) b = Memory.read sp m b := by
  unfold Memory.put
  split
  · rfl
  · rw [Memory.read_cons, if_neg (Ne.symm h)]

/-- A write leaves every other address alone, whatever the memory. -/
theorem Memory.read_write_ne (m : Memory) (a b : Nat) (v : Byte) (h : b ≠ a) :
    Memory.read sp (Memory.write sp m a v) b = Memory.read sp m b := by
  induction m with
  | nil => exact Memory.read_put_ne _ _ _ _ h
  | cons c m ih =>
    unfold Memory.write
    split
    · exact Memory.read_put_ne _ _ _ _ h
    · split
      · rename_i hac
        rw [Memory.read_put_ne _ _ _ _ h, Memory.read_cons, if_neg (by omega)]
      · rw [Memory.read_cons, Memory.read_cons, ih]

theorem Memory.read_put_same (m : Memory) (a : Nat) (v : Byte) (hm : Memory.wfFrom sp (a + 1) m = true) :
    Memory.read sp (Memory.put sp a v m) a = v := by
  unfold Memory.put
  split
  · rename_i h
    rw [Memory.read_below m hm a (by omega), h]
  · simp [Memory.read_cons]

theorem Memory.read_writeFrom (m : Memory) (lo a : Nat) (v : Byte) (hm : Memory.wfFrom sp lo m = true) :
    Memory.read sp (Memory.write sp m a v) a = v := by
  induction m generalizing lo with
  | nil => exact Memory.read_put_same [] a v rfl
  | cons c m ih =>
    have hm' := hm
    simp only [Memory.wfFrom, Bool.and_eq_true, decide_eq_true_eq] at hm
    unfold Memory.write
    split
    · refine Memory.read_put_same _ _ _ ?_
      simp only [Memory.wfFrom, Bool.and_eq_true, decide_eq_true_eq]
      exact ⟨⟨by omega, hm.1.2⟩, hm.2⟩
    · split
      · rename_i hac
        exact Memory.read_put_same _ _ _ (hac ▸ hm.2)
      · rename_i hac
        rw [Memory.read_cons, if_neg (Ne.symm hac)]
        exact ih _ hm.2

/-- A read after a write to the same address gives the value written. -/
theorem Memory.read_write_same (m : Memory) (a : Nat) (v : Byte) (hm : Memory.wf sp m = true) :
    Memory.read sp (Memory.write sp m a v) a = v := Memory.read_writeFrom m 0 a v hm

theorem Memory.put_wf {lo : Nat} (m : Memory) (a : Nat) (v : Byte) (h : lo ≤ a)
    (hm : Memory.wfFrom sp (a + 1) m = true) : Memory.wfFrom sp lo (Memory.put sp a v m) = true := by
  unfold Memory.put
  split
  · exact Memory.wfFrom_mono (by omega) m hm
  · rename_i hv
    simp only [Memory.wfFrom, Bool.and_eq_true, decide_eq_true_eq, bne_iff_ne]
    exact ⟨⟨h, hv⟩, hm⟩

theorem Memory.write_wfFrom {lo : Nat} (m : Memory) (a : Nat) (v : Byte) (h : lo ≤ a)
    (hm : Memory.wfFrom sp lo m = true) : Memory.wfFrom sp lo (Memory.write sp m a v) = true := by
  induction m generalizing lo with
  | nil => exact Memory.put_wf [] a v h rfl
  | cons c m ih =>
    simp only [Memory.wfFrom, Bool.and_eq_true, decide_eq_true_eq] at hm
    unfold Memory.write
    split
    · refine Memory.put_wf _ a v h ?_
      simp only [Memory.wfFrom, Bool.and_eq_true, decide_eq_true_eq]
      exact ⟨⟨by omega, hm.1.2⟩, hm.2⟩
    · split
      · rename_i hac
        exact Memory.put_wf m a v h (hac ▸ hm.2)
      · simp only [Memory.wfFrom, Bool.and_eq_true, decide_eq_true_eq]
        exact ⟨hm.1, ih (by omega) hm.2⟩

/-- A write keeps the canonical form. -/
theorem Memory.write_wf (m : Memory) (a : Nat) (v : Byte) (hm : Memory.wf sp m = true) :
    Memory.wf sp (Memory.write sp m a v) = true := Memory.write_wfFrom m a v (Nat.zero_le a) hm

/-- Several writes keep the canonical form. -/
theorem Memory.writeAll_wf (cells : List Host.Cell) (m : Memory) (hm : Memory.wf sp m = true) :
    Memory.wf sp (Memory.writeAll sp m cells) = true := by
  induction cells generalizing m with
  | nil => exact hm
  | cons c cells ih => exact ih _ (Memory.write_wf m c.1 c.2 hm)

/-- An address that a write lists is one that was listed or the address written. -/
theorem Memory.mem_write (m : Memory) (a : Nat) (v : Byte) (c : Host.Cell) (h : c ∈ Memory.write sp m a v) :
    c ∈ m ∨ c.1 = a := by
  induction m with
  | nil =>
    unfold Memory.write Memory.put at h
    split at h
    · simp at h
    · simp at h; simp [h]
  | cons d m ih =>
    unfold Memory.write Memory.put at h
    split at h
    · split at h
      · exact .inl h
      · rcases List.mem_cons.1 h with rfl | h
        · exact .inr rfl
        · exact .inl h
    · split at h
      · split at h
        · exact .inl (List.mem_cons_of_mem _ h)
        · rcases List.mem_cons.1 h with rfl | h
          · exact .inr rfl
          · exact .inl (List.mem_cons_of_mem _ h)
      · rcases List.mem_cons.1 h with rfl | h
        · exact .inl (List.mem_cons_self)
        · exact (ih h).imp (List.mem_cons_of_mem _) id

theorem Memory.ext_from {lo : Nat} (m m' : Memory) (hm : Memory.wfFrom sp lo m = true) (hm' : Memory.wfFrom sp lo m' = true)
    (h : ∀ a, Memory.read sp m a = Memory.read sp m' a) : m = m' := by
  induction m generalizing lo m' with
  | nil =>
    cases m' with
    | nil => rfl
    | cons c m' =>
      simp only [Memory.wfFrom, Bool.and_eq_true, decide_eq_true_eq, bne_iff_ne] at hm'
      have := h c.1
      simp only [Memory.read_nil, Memory.read_cons, if_true] at this
      exact absurd this.symm hm'.1.2
  | cons c m ih =>
    simp only [Memory.wfFrom, Bool.and_eq_true, decide_eq_true_eq, bne_iff_ne] at hm
    cases m' with
    | nil =>
      have := h c.1
      simp only [Memory.read_nil, Memory.read_cons, if_true] at this
      exact absurd this hm.1.2
    | cons d m' =>
      simp only [Memory.wfFrom, Bool.and_eq_true, decide_eq_true_eq, bne_iff_ne] at hm'
      have hcd : c.1 = d.1 := by
        rcases Nat.lt_trichotomy c.1 d.1 with hlt | heq | hgt
        · have := h c.1
          rw [Memory.read_cons, if_pos rfl, Memory.read_cons, if_neg (by omega),
            Memory.read_below m' hm'.2 c.1 (by omega)] at this
          exact absurd this hm.1.2
        · exact heq
        · have := h d.1
          rw [Memory.read_cons, if_neg (by omega), Memory.read_cons, if_pos rfl,
            Memory.read_below m hm.2 d.1 (by omega)] at this
          exact absurd this.symm hm'.1.2
      have hval : c.2 = d.2 := by
        have := h c.1
        rwa [Memory.read_cons, if_pos rfl, Memory.read_cons, if_pos hcd.symm] at this
      have htail : m = m' := by
        refine ih m' hm.2 (hcd ▸ hm'.2) fun a => ?_
        by_cases ha : a ≤ c.1
        · rw [Memory.read_below m hm.2 a (by omega), Memory.read_below m' hm'.2 a (by omega)]
        · have := h a
          rwa [Memory.read_cons, if_neg (by omega), Memory.read_cons, if_neg (by omega)] at this
      rw [htail, show c = d from Prod.ext hcd hval]

/-- Memories in canonical form that read alike are equal data. -/
theorem Memory.ext_of_wf (m m' : Memory) (hm : Memory.wf sp m = true) (hm' : Memory.wf sp m' = true)
    (h : ∀ a, Memory.read sp m a = Memory.read sp m' a) : m = m' := Memory.ext_from m m' hm hm' h

end Sys2Proof.Machine
end

