-- ==== Sys2Proof/Laws/State.lean ====
section
/-! SUPPORT. What each named update of the state leaves in each field; one lemma per field per update. -/

namespace Sys2Proof.Machine

variable (s : State)

@[simp] theorem State.setW_w (v : Byte) : (s.setW v).w = v := rfl
@[simp] theorem State.setW_flags (v : Byte) : (s.setW v).flags = s.flags := rfl
@[simp] theorem State.setW_bsr (v : Byte) : (s.setW v).bsr = s.bsr := rfl
@[simp] theorem State.setW_fsr0 (v : Byte) : (s.setW v).fsr0 = s.fsr0 := rfl
@[simp] theorem State.setW_fsr1 (v : Byte) : (s.setW v).fsr1 = s.fsr1 := rfl
@[simp] theorem State.setW_fsr2 (v : Byte) : (s.setW v).fsr2 = s.fsr2 := rfl
@[simp] theorem State.setW_prodh (v : Byte) : (s.setW v).prodh = s.prodh := rfl
@[simp] theorem State.setW_prodl (v : Byte) : (s.setW v).prodl = s.prodl := rfl
@[simp] theorem State.setW_tblptr (v : Byte) : (s.setW v).tblptr = s.tblptr := rfl
@[simp] theorem State.setW_tablat (v : Byte) : (s.setW v).tablat = s.tablat := rfl
@[simp] theorem State.setW_pc (v : Byte) : (s.setW v).pc = s.pc := rfl
@[simp] theorem State.setW_pclath (v : Byte) : (s.setW v).pclath = s.pclath := rfl
@[simp] theorem State.setW_pclatu (v : Byte) : (s.setW v).pclatu = s.pclatu := rfl
@[simp] theorem State.setW_stack (v : Byte) : (s.setW v).stack = s.stack := rfl
@[simp] theorem State.setW_sp (v : Byte) : (s.setW v).sp = s.sp := rfl
@[simp] theorem State.setW_stkful (v : Byte) : (s.setW v).stkful = s.stkful := rfl
@[simp] theorem State.setW_stkunf (v : Byte) : (s.setW v).stkunf = s.stkunf := rfl
@[simp] theorem State.setW_ws (v : Byte) : (s.setW v).ws = s.ws := rfl
@[simp] theorem State.setW_statuss (v : Byte) : (s.setW v).statuss = s.statuss := rfl
@[simp] theorem State.setW_bsrs (v : Byte) : (s.setW v).bsrs = s.bsrs := rfl
@[simp] theorem State.setW_gieh (v : Byte) : (s.setW v).gieh = s.gieh := rfl
@[simp] theorem State.setW_giel (v : Byte) : (s.setW v).giel = s.giel := rfl
@[simp] theorem State.setW_intcon50 (v : Byte) : (s.setW v).intcon50 = s.intcon50 := rfl
@[simp] theorem State.setW_ipen (v : Byte) : (s.setW v).ipen = s.ipen := rfl
@[simp] theorem State.setW_lwrt (v : Byte) : (s.setW v).lwrt = s.lwrt := rfl
@[simp] theorem State.setW_ri (v : Byte) : (s.setW v).ri = s.ri := rfl
@[simp] theorem State.setW_toBit (v : Byte) : (s.setW v).toBit = s.toBit := rfl
@[simp] theorem State.setW_pdBit (v : Byte) : (s.setW v).pdBit = s.pdBit := rfl
@[simp] theorem State.setW_por (v : Byte) : (s.setW v).por = s.por := rfl
@[simp] theorem State.setW_bor (v : Byte) : (s.setW v).bor = s.bor := rfl
@[simp] theorem State.setW_asleep (v : Byte) : (s.setW v).asleep = s.asleep := rfl
@[simp] theorem State.setW_hold0 (v : Byte) : (s.setW v).hold0 = s.hold0 := rfl
@[simp] theorem State.setW_hold1 (v : Byte) : (s.setW v).hold1 = s.hold1 := rfl
@[simp] theorem State.setW_dm (v : Byte) : (s.setW v).dm = s.dm := rfl
@[simp] theorem State.setW_pm (v : Byte) : (s.setW v).pm = s.pm := rfl
@[simp] theorem State.setW_inputs (v : Byte) : (s.setW v).inputs = s.inputs := rfl
@[simp] theorem State.setW_heldHigh (v : Byte) : (s.setW v).heldHigh = s.heldHigh := rfl
@[simp] theorem State.setW_heldLow (v : Byte) : (s.setW v).heldLow = s.heldLow := rfl
@[simp] theorem State.setW_periphIn (v : Byte) : (s.setW v).periphIn = s.periphIn := rfl
@[simp] theorem State.setW_periphOut (v : Byte) : (s.setW v).periphOut = s.periphOut := rfl
@[simp] theorem State.setW_freeCtr (v : Byte) : (s.setW v).freeCtr = s.freeCtr := rfl
@[simp] theorem State.setW_cfg (v : Byte) : (s.setW v).cfg = s.cfg := rfl
@[simp] theorem State.setW_fsr (v : Byte) (i : FsrIdx) : (s.setW v).fsr i = s.fsr i := by cases i <;> rfl

@[simp] theorem State.setFlags_w (v : Flags) : (s.setFlags v).w = s.w := rfl
@[simp] theorem State.setFlags_flags (v : Flags) : (s.setFlags v).flags = v := rfl
@[simp] theorem State.setFlags_bsr (v : Flags) : (s.setFlags v).bsr = s.bsr := rfl
@[simp] theorem State.setFlags_fsr0 (v : Flags) : (s.setFlags v).fsr0 = s.fsr0 := rfl
@[simp] theorem State.setFlags_fsr1 (v : Flags) : (s.setFlags v).fsr1 = s.fsr1 := rfl
@[simp] theorem State.setFlags_fsr2 (v : Flags) : (s.setFlags v).fsr2 = s.fsr2 := rfl
@[simp] theorem State.setFlags_prodh (v : Flags) : (s.setFlags v).prodh = s.prodh := rfl
@[simp] theorem State.setFlags_prodl (v : Flags) : (s.setFlags v).prodl = s.prodl := rfl
@[simp] theorem State.setFlags_tblptr (v : Flags) : (s.setFlags v).tblptr = s.tblptr := rfl
@[simp] theorem State.setFlags_tablat (v : Flags) : (s.setFlags v).tablat = s.tablat := rfl
@[simp] theorem State.setFlags_pc (v : Flags) : (s.setFlags v).pc = s.pc := rfl
@[simp] theorem State.setFlags_pclath (v : Flags) : (s.setFlags v).pclath = s.pclath := rfl
@[simp] theorem State.setFlags_pclatu (v : Flags) : (s.setFlags v).pclatu = s.pclatu := rfl
@[simp] theorem State.setFlags_stack (v : Flags) : (s.setFlags v).stack = s.stack := rfl
@[simp] theorem State.setFlags_sp (v : Flags) : (s.setFlags v).sp = s.sp := rfl
@[simp] theorem State.setFlags_stkful (v : Flags) : (s.setFlags v).stkful = s.stkful := rfl
@[simp] theorem State.setFlags_stkunf (v : Flags) : (s.setFlags v).stkunf = s.stkunf := rfl
@[simp] theorem State.setFlags_ws (v : Flags) : (s.setFlags v).ws = s.ws := rfl
@[simp] theorem State.setFlags_statuss (v : Flags) : (s.setFlags v).statuss = s.statuss := rfl
@[simp] theorem State.setFlags_bsrs (v : Flags) : (s.setFlags v).bsrs = s.bsrs := rfl
@[simp] theorem State.setFlags_gieh (v : Flags) : (s.setFlags v).gieh = s.gieh := rfl
@[simp] theorem State.setFlags_giel (v : Flags) : (s.setFlags v).giel = s.giel := rfl
@[simp] theorem State.setFlags_intcon50 (v : Flags) : (s.setFlags v).intcon50 = s.intcon50 := rfl
@[simp] theorem State.setFlags_ipen (v : Flags) : (s.setFlags v).ipen = s.ipen := rfl
@[simp] theorem State.setFlags_lwrt (v : Flags) : (s.setFlags v).lwrt = s.lwrt := rfl
@[simp] theorem State.setFlags_ri (v : Flags) : (s.setFlags v).ri = s.ri := rfl
@[simp] theorem State.setFlags_toBit (v : Flags) : (s.setFlags v).toBit = s.toBit := rfl
@[simp] theorem State.setFlags_pdBit (v : Flags) : (s.setFlags v).pdBit = s.pdBit := rfl
@[simp] theorem State.setFlags_por (v : Flags) : (s.setFlags v).por = s.por := rfl
@[simp] theorem State.setFlags_bor (v : Flags) : (s.setFlags v).bor = s.bor := rfl
@[simp] theorem State.setFlags_asleep (v : Flags) : (s.setFlags v).asleep = s.asleep := rfl
@[simp] theorem State.setFlags_hold0 (v : Flags) : (s.setFlags v).hold0 = s.hold0 := rfl
@[simp] theorem State.setFlags_hold1 (v : Flags) : (s.setFlags v).hold1 = s.hold1 := rfl
@[simp] theorem State.setFlags_dm (v : Flags) : (s.setFlags v).dm = s.dm := rfl
@[simp] theorem State.setFlags_pm (v : Flags) : (s.setFlags v).pm = s.pm := rfl
@[simp] theorem State.setFlags_inputs (v : Flags) : (s.setFlags v).inputs = s.inputs := rfl
@[simp] theorem State.setFlags_heldHigh (v : Flags) : (s.setFlags v).heldHigh = s.heldHigh := rfl
@[simp] theorem State.setFlags_heldLow (v : Flags) : (s.setFlags v).heldLow = s.heldLow := rfl
@[simp] theorem State.setFlags_periphIn (v : Flags) : (s.setFlags v).periphIn = s.periphIn := rfl
@[simp] theorem State.setFlags_periphOut (v : Flags) : (s.setFlags v).periphOut = s.periphOut := rfl
@[simp] theorem State.setFlags_freeCtr (v : Flags) : (s.setFlags v).freeCtr = s.freeCtr := rfl
@[simp] theorem State.setFlags_cfg (v : Flags) : (s.setFlags v).cfg = s.cfg := rfl
@[simp] theorem State.setFlags_fsr (v : Flags) (i : FsrIdx) : (s.setFlags v).fsr i = s.fsr i := by cases i <;> rfl

@[simp] theorem State.setPc_w (v : ProgAddr) : (s.setPc v).w = s.w := rfl
@[simp] theorem State.setPc_flags (v : ProgAddr) : (s.setPc v).flags = s.flags := rfl
@[simp] theorem State.setPc_bsr (v : ProgAddr) : (s.setPc v).bsr = s.bsr := rfl
@[simp] theorem State.setPc_fsr0 (v : ProgAddr) : (s.setPc v).fsr0 = s.fsr0 := rfl
@[simp] theorem State.setPc_fsr1 (v : ProgAddr) : (s.setPc v).fsr1 = s.fsr1 := rfl
@[simp] theorem State.setPc_fsr2 (v : ProgAddr) : (s.setPc v).fsr2 = s.fsr2 := rfl
@[simp] theorem State.setPc_prodh (v : ProgAddr) : (s.setPc v).prodh = s.prodh := rfl
@[simp] theorem State.setPc_prodl (v : ProgAddr) : (s.setPc v).prodl = s.prodl := rfl
@[simp] theorem State.setPc_tblptr (v : ProgAddr) : (s.setPc v).tblptr = s.tblptr := rfl
@[simp] theorem State.setPc_tablat (v : ProgAddr) : (s.setPc v).tablat = s.tablat := rfl
@[simp] theorem State.setPc_pc (v : ProgAddr) : (s.setPc v).pc = v := rfl
@[simp] theorem State.setPc_pclath (v : ProgAddr) : (s.setPc v).pclath = s.pclath := rfl
@[simp] theorem State.setPc_pclatu (v : ProgAddr) : (s.setPc v).pclatu = s.pclatu := rfl
@[simp] theorem State.setPc_stack (v : ProgAddr) : (s.setPc v).stack = s.stack := rfl
@[simp] theorem State.setPc_sp (v : ProgAddr) : (s.setPc v).sp = s.sp := rfl
@[simp] theorem State.setPc_stkful (v : ProgAddr) : (s.setPc v).stkful = s.stkful := rfl
@[simp] theorem State.setPc_stkunf (v : ProgAddr) : (s.setPc v).stkunf = s.stkunf := rfl
@[simp] theorem State.setPc_ws (v : ProgAddr) : (s.setPc v).ws = s.ws := rfl
@[simp] theorem State.setPc_statuss (v : ProgAddr) : (s.setPc v).statuss = s.statuss := rfl
@[simp] theorem State.setPc_bsrs (v : ProgAddr) : (s.setPc v).bsrs = s.bsrs := rfl
@[simp] theorem State.setPc_gieh (v : ProgAddr) : (s.setPc v).gieh = s.gieh := rfl
@[simp] theorem State.setPc_giel (v : ProgAddr) : (s.setPc v).giel = s.giel := rfl
@[simp] theorem State.setPc_intcon50 (v : ProgAddr) : (s.setPc v).intcon50 = s.intcon50 := rfl
@[simp] theorem State.setPc_ipen (v : ProgAddr) : (s.setPc v).ipen = s.ipen := rfl
@[simp] theorem State.setPc_lwrt (v : ProgAddr) : (s.setPc v).lwrt = s.lwrt := rfl
@[simp] theorem State.setPc_ri (v : ProgAddr) : (s.setPc v).ri = s.ri := rfl
@[simp] theorem State.setPc_toBit (v : ProgAddr) : (s.setPc v).toBit = s.toBit := rfl
@[simp] theorem State.setPc_pdBit (v : ProgAddr) : (s.setPc v).pdBit = s.pdBit := rfl
@[simp] theorem State.setPc_por (v : ProgAddr) : (s.setPc v).por = s.por := rfl
@[simp] theorem State.setPc_bor (v : ProgAddr) : (s.setPc v).bor = s.bor := rfl
@[simp] theorem State.setPc_asleep (v : ProgAddr) : (s.setPc v).asleep = s.asleep := rfl
@[simp] theorem State.setPc_hold0 (v : ProgAddr) : (s.setPc v).hold0 = s.hold0 := rfl
@[simp] theorem State.setPc_hold1 (v : ProgAddr) : (s.setPc v).hold1 = s.hold1 := rfl
@[simp] theorem State.setPc_dm (v : ProgAddr) : (s.setPc v).dm = s.dm := rfl
@[simp] theorem State.setPc_pm (v : ProgAddr) : (s.setPc v).pm = s.pm := rfl
@[simp] theorem State.setPc_inputs (v : ProgAddr) : (s.setPc v).inputs = s.inputs := rfl
@[simp] theorem State.setPc_heldHigh (v : ProgAddr) : (s.setPc v).heldHigh = s.heldHigh := rfl
@[simp] theorem State.setPc_heldLow (v : ProgAddr) : (s.setPc v).heldLow = s.heldLow := rfl
@[simp] theorem State.setPc_periphIn (v : ProgAddr) : (s.setPc v).periphIn = s.periphIn := rfl
@[simp] theorem State.setPc_periphOut (v : ProgAddr) : (s.setPc v).periphOut = s.periphOut := rfl
@[simp] theorem State.setPc_freeCtr (v : ProgAddr) : (s.setPc v).freeCtr = s.freeCtr := rfl
@[simp] theorem State.setPc_cfg (v : ProgAddr) : (s.setPc v).cfg = s.cfg := rfl
@[simp] theorem State.setPc_fsr (v : ProgAddr) (i : FsrIdx) : (s.setPc v).fsr i = s.fsr i := by cases i <;> rfl

@[simp] theorem State.setBsr_w (v : BitVec 4) : (s.setBsr v).w = s.w := rfl
@[simp] theorem State.setBsr_flags (v : BitVec 4) : (s.setBsr v).flags = s.flags := rfl
@[simp] theorem State.setBsr_bsr (v : BitVec 4) : (s.setBsr v).bsr = v := rfl
@[simp] theorem State.setBsr_fsr0 (v : BitVec 4) : (s.setBsr v).fsr0 = s.fsr0 := rfl
@[simp] theorem State.setBsr_fsr1 (v : BitVec 4) : (s.setBsr v).fsr1 = s.fsr1 := rfl
@[simp] theorem State.setBsr_fsr2 (v : BitVec 4) : (s.setBsr v).fsr2 = s.fsr2 := rfl
@[simp] theorem State.setBsr_prodh (v : BitVec 4) : (s.setBsr v).prodh = s.prodh := rfl
@[simp] theorem State.setBsr_prodl (v : BitVec 4) : (s.setBsr v).prodl = s.prodl := rfl
@[simp] theorem State.setBsr_tblptr (v : BitVec 4) : (s.setBsr v).tblptr = s.tblptr := rfl
@[simp] theorem State.setBsr_tablat (v : BitVec 4) : (s.setBsr v).tablat = s.tablat := rfl
@[simp] theorem State.setBsr_pc (v : BitVec 4) : (s.setBsr v).pc = s.pc := rfl
@[simp] theorem State.setBsr_pclath (v : BitVec 4) : (s.setBsr v).pclath = s.pclath := rfl
@[simp] theorem State.setBsr_pclatu (v : BitVec 4) : (s.setBsr v).pclatu = s.pclatu := rfl
@[simp] theorem State.setBsr_stack (v : BitVec 4) : (s.setBsr v).stack = s.stack := rfl
@[simp] theorem State.setBsr_sp (v : BitVec 4) : (s.setBsr v).sp = s.sp := rfl
@[simp] theorem State.setBsr_stkful (v : BitVec 4) : (s.setBsr v).stkful = s.stkful := rfl
@[simp] theorem State.setBsr_stkunf (v : BitVec 4) : (s.setBsr v).stkunf = s.stkunf := rfl
@[simp] theorem State.setBsr_ws (v : BitVec 4) : (s.setBsr v).ws = s.ws := rfl
@[simp] theorem State.setBsr_statuss (v : BitVec 4) : (s.setBsr v).statuss = s.statuss := rfl
@[simp] theorem State.setBsr_bsrs (v : BitVec 4) : (s.setBsr v).bsrs = s.bsrs := rfl
@[simp] theorem State.setBsr_gieh (v : BitVec 4) : (s.setBsr v).gieh = s.gieh := rfl
@[simp] theorem State.setBsr_giel (v : BitVec 4) : (s.setBsr v).giel = s.giel := rfl
@[simp] theorem State.setBsr_intcon50 (v : BitVec 4) : (s.setBsr v).intcon50 = s.intcon50 := rfl
@[simp] theorem State.setBsr_ipen (v : BitVec 4) : (s.setBsr v).ipen = s.ipen := rfl
@[simp] theorem State.setBsr_lwrt (v : BitVec 4) : (s.setBsr v).lwrt = s.lwrt := rfl
@[simp] theorem State.setBsr_ri (v : BitVec 4) : (s.setBsr v).ri = s.ri := rfl
@[simp] theorem State.setBsr_toBit (v : BitVec 4) : (s.setBsr v).toBit = s.toBit := rfl
@[simp] theorem State.setBsr_pdBit (v : BitVec 4) : (s.setBsr v).pdBit = s.pdBit := rfl
@[simp] theorem State.setBsr_por (v : BitVec 4) : (s.setBsr v).por = s.por := rfl
@[simp] theorem State.setBsr_bor (v : BitVec 4) : (s.setBsr v).bor = s.bor := rfl
@[simp] theorem State.setBsr_asleep (v : BitVec 4) : (s.setBsr v).asleep = s.asleep := rfl
@[simp] theorem State.setBsr_hold0 (v : BitVec 4) : (s.setBsr v).hold0 = s.hold0 := rfl
@[simp] theorem State.setBsr_hold1 (v : BitVec 4) : (s.setBsr v).hold1 = s.hold1 := rfl
@[simp] theorem State.setBsr_dm (v : BitVec 4) : (s.setBsr v).dm = s.dm := rfl
@[simp] theorem State.setBsr_pm (v : BitVec 4) : (s.setBsr v).pm = s.pm := rfl
@[simp] theorem State.setBsr_inputs (v : BitVec 4) : (s.setBsr v).inputs = s.inputs := rfl
@[simp] theorem State.setBsr_heldHigh (v : BitVec 4) : (s.setBsr v).heldHigh = s.heldHigh := rfl
@[simp] theorem State.setBsr_heldLow (v : BitVec 4) : (s.setBsr v).heldLow = s.heldLow := rfl
@[simp] theorem State.setBsr_periphIn (v : BitVec 4) : (s.setBsr v).periphIn = s.periphIn := rfl
@[simp] theorem State.setBsr_periphOut (v : BitVec 4) : (s.setBsr v).periphOut = s.periphOut := rfl
@[simp] theorem State.setBsr_freeCtr (v : BitVec 4) : (s.setBsr v).freeCtr = s.freeCtr := rfl
@[simp] theorem State.setBsr_cfg (v : BitVec 4) : (s.setBsr v).cfg = s.cfg := rfl
@[simp] theorem State.setBsr_fsr (v : BitVec 4) (i : FsrIdx) : (s.setBsr v).fsr i = s.fsr i := by cases i <;> rfl

@[simp] theorem State.setProd_w (v : BitVec 16) : (s.setProd v).w = s.w := rfl
@[simp] theorem State.setProd_flags (v : BitVec 16) : (s.setProd v).flags = s.flags := rfl
@[simp] theorem State.setProd_bsr (v : BitVec 16) : (s.setProd v).bsr = s.bsr := rfl
@[simp] theorem State.setProd_fsr0 (v : BitVec 16) : (s.setProd v).fsr0 = s.fsr0 := rfl
@[simp] theorem State.setProd_fsr1 (v : BitVec 16) : (s.setProd v).fsr1 = s.fsr1 := rfl
@[simp] theorem State.setProd_fsr2 (v : BitVec 16) : (s.setProd v).fsr2 = s.fsr2 := rfl
@[simp] theorem State.setProd_prodh (v : BitVec 16) : (s.setProd v).prodh = v.extractLsb' 8 8 := rfl
@[simp] theorem State.setProd_prodl (v : BitVec 16) : (s.setProd v).prodl = v.extractLsb' 0 8 := rfl
@[simp] theorem State.setProd_tblptr (v : BitVec 16) : (s.setProd v).tblptr = s.tblptr := rfl
@[simp] theorem State.setProd_tablat (v : BitVec 16) : (s.setProd v).tablat = s.tablat := rfl
@[simp] theorem State.setProd_pc (v : BitVec 16) : (s.setProd v).pc = s.pc := rfl
@[simp] theorem State.setProd_pclath (v : BitVec 16) : (s.setProd v).pclath = s.pclath := rfl
@[simp] theorem State.setProd_pclatu (v : BitVec 16) : (s.setProd v).pclatu = s.pclatu := rfl
@[simp] theorem State.setProd_stack (v : BitVec 16) : (s.setProd v).stack = s.stack := rfl
@[simp] theorem State.setProd_sp (v : BitVec 16) : (s.setProd v).sp = s.sp := rfl
@[simp] theorem State.setProd_stkful (v : BitVec 16) : (s.setProd v).stkful = s.stkful := rfl
@[simp] theorem State.setProd_stkunf (v : BitVec 16) : (s.setProd v).stkunf = s.stkunf := rfl
@[simp] theorem State.setProd_ws (v : BitVec 16) : (s.setProd v).ws = s.ws := rfl
@[simp] theorem State.setProd_statuss (v : BitVec 16) : (s.setProd v).statuss = s.statuss := rfl
@[simp] theorem State.setProd_bsrs (v : BitVec 16) : (s.setProd v).bsrs = s.bsrs := rfl
@[simp] theorem State.setProd_gieh (v : BitVec 16) : (s.setProd v).gieh = s.gieh := rfl
@[simp] theorem State.setProd_giel (v : BitVec 16) : (s.setProd v).giel = s.giel := rfl
@[simp] theorem State.setProd_intcon50 (v : BitVec 16) : (s.setProd v).intcon50 = s.intcon50 := rfl
@[simp] theorem State.setProd_ipen (v : BitVec 16) : (s.setProd v).ipen = s.ipen := rfl
@[simp] theorem State.setProd_lwrt (v : BitVec 16) : (s.setProd v).lwrt = s.lwrt := rfl
@[simp] theorem State.setProd_ri (v : BitVec 16) : (s.setProd v).ri = s.ri := rfl
@[simp] theorem State.setProd_toBit (v : BitVec 16) : (s.setProd v).toBit = s.toBit := rfl
@[simp] theorem State.setProd_pdBit (v : BitVec 16) : (s.setProd v).pdBit = s.pdBit := rfl
@[simp] theorem State.setProd_por (v : BitVec 16) : (s.setProd v).por = s.por := rfl
@[simp] theorem State.setProd_bor (v : BitVec 16) : (s.setProd v).bor = s.bor := rfl
@[simp] theorem State.setProd_asleep (v : BitVec 16) : (s.setProd v).asleep = s.asleep := rfl
@[simp] theorem State.setProd_hold0 (v : BitVec 16) : (s.setProd v).hold0 = s.hold0 := rfl
@[simp] theorem State.setProd_hold1 (v : BitVec 16) : (s.setProd v).hold1 = s.hold1 := rfl
@[simp] theorem State.setProd_dm (v : BitVec 16) : (s.setProd v).dm = s.dm := rfl
@[simp] theorem State.setProd_pm (v : BitVec 16) : (s.setProd v).pm = s.pm := rfl
@[simp] theorem State.setProd_inputs (v : BitVec 16) : (s.setProd v).inputs = s.inputs := rfl
@[simp] theorem State.setProd_heldHigh (v : BitVec 16) : (s.setProd v).heldHigh = s.heldHigh := rfl
@[simp] theorem State.setProd_heldLow (v : BitVec 16) : (s.setProd v).heldLow = s.heldLow := rfl
@[simp] theorem State.setProd_periphIn (v : BitVec 16) : (s.setProd v).periphIn = s.periphIn := rfl
@[simp] theorem State.setProd_periphOut (v : BitVec 16) : (s.setProd v).periphOut = s.periphOut := rfl
@[simp] theorem State.setProd_freeCtr (v : BitVec 16) : (s.setProd v).freeCtr = s.freeCtr := rfl
@[simp] theorem State.setProd_cfg (v : BitVec 16) : (s.setProd v).cfg = s.cfg := rfl
@[simp] theorem State.setProd_fsr (v : BitVec 16) (i : FsrIdx) : (s.setProd v).fsr i = s.fsr i := by cases i <;> rfl

@[simp] theorem State.setTblptr_w (v : BitVec 22) : (s.setTblptr v).w = s.w := rfl
@[simp] theorem State.setTblptr_flags (v : BitVec 22) : (s.setTblptr v).flags = s.flags := rfl
@[simp] theorem State.setTblptr_bsr (v : BitVec 22) : (s.setTblptr v).bsr = s.bsr := rfl
@[simp] theorem State.setTblptr_fsr0 (v : BitVec 22) : (s.setTblptr v).fsr0 = s.fsr0 := rfl
@[simp] theorem State.setTblptr_fsr1 (v : BitVec 22) : (s.setTblptr v).fsr1 = s.fsr1 := rfl
@[simp] theorem State.setTblptr_fsr2 (v : BitVec 22) : (s.setTblptr v).fsr2 = s.fsr2 := rfl
@[simp] theorem State.setTblptr_prodh (v : BitVec 22) : (s.setTblptr v).prodh = s.prodh := rfl
@[simp] theorem State.setTblptr_prodl (v : BitVec 22) : (s.setTblptr v).prodl = s.prodl := rfl
@[simp] theorem State.setTblptr_tblptr (v : BitVec 22) : (s.setTblptr v).tblptr = v := rfl
@[simp] theorem State.setTblptr_tablat (v : BitVec 22) : (s.setTblptr v).tablat = s.tablat := rfl
@[simp] theorem State.setTblptr_pc (v : BitVec 22) : (s.setTblptr v).pc = s.pc := rfl
@[simp] theorem State.setTblptr_pclath (v : BitVec 22) : (s.setTblptr v).pclath = s.pclath := rfl
@[simp] theorem State.setTblptr_pclatu (v : BitVec 22) : (s.setTblptr v).pclatu = s.pclatu := rfl
@[simp] theorem State.setTblptr_stack (v : BitVec 22) : (s.setTblptr v).stack = s.stack := rfl
@[simp] theorem State.setTblptr_sp (v : BitVec 22) : (s.setTblptr v).sp = s.sp := rfl
@[simp] theorem State.setTblptr_stkful (v : BitVec 22) : (s.setTblptr v).stkful = s.stkful := rfl
@[simp] theorem State.setTblptr_stkunf (v : BitVec 22) : (s.setTblptr v).stkunf = s.stkunf := rfl
@[simp] theorem State.setTblptr_ws (v : BitVec 22) : (s.setTblptr v).ws = s.ws := rfl
@[simp] theorem State.setTblptr_statuss (v : BitVec 22) : (s.setTblptr v).statuss = s.statuss := rfl
@[simp] theorem State.setTblptr_bsrs (v : BitVec 22) : (s.setTblptr v).bsrs = s.bsrs := rfl
@[simp] theorem State.setTblptr_gieh (v : BitVec 22) : (s.setTblptr v).gieh = s.gieh := rfl
@[simp] theorem State.setTblptr_giel (v : BitVec 22) : (s.setTblptr v).giel = s.giel := rfl
@[simp] theorem State.setTblptr_intcon50 (v : BitVec 22) : (s.setTblptr v).intcon50 = s.intcon50 := rfl
@[simp] theorem State.setTblptr_ipen (v : BitVec 22) : (s.setTblptr v).ipen = s.ipen := rfl
@[simp] theorem State.setTblptr_lwrt (v : BitVec 22) : (s.setTblptr v).lwrt = s.lwrt := rfl
@[simp] theorem State.setTblptr_ri (v : BitVec 22) : (s.setTblptr v).ri = s.ri := rfl
@[simp] theorem State.setTblptr_toBit (v : BitVec 22) : (s.setTblptr v).toBit = s.toBit := rfl
@[simp] theorem State.setTblptr_pdBit (v : BitVec 22) : (s.setTblptr v).pdBit = s.pdBit := rfl
@[simp] theorem State.setTblptr_por (v : BitVec 22) : (s.setTblptr v).por = s.por := rfl
@[simp] theorem State.setTblptr_bor (v : BitVec 22) : (s.setTblptr v).bor = s.bor := rfl
@[simp] theorem State.setTblptr_asleep (v : BitVec 22) : (s.setTblptr v).asleep = s.asleep := rfl
@[simp] theorem State.setTblptr_hold0 (v : BitVec 22) : (s.setTblptr v).hold0 = s.hold0 := rfl
@[simp] theorem State.setTblptr_hold1 (v : BitVec 22) : (s.setTblptr v).hold1 = s.hold1 := rfl
@[simp] theorem State.setTblptr_dm (v : BitVec 22) : (s.setTblptr v).dm = s.dm := rfl
@[simp] theorem State.setTblptr_pm (v : BitVec 22) : (s.setTblptr v).pm = s.pm := rfl
@[simp] theorem State.setTblptr_inputs (v : BitVec 22) : (s.setTblptr v).inputs = s.inputs := rfl
@[simp] theorem State.setTblptr_heldHigh (v : BitVec 22) : (s.setTblptr v).heldHigh = s.heldHigh := rfl
@[simp] theorem State.setTblptr_heldLow (v : BitVec 22) : (s.setTblptr v).heldLow = s.heldLow := rfl
@[simp] theorem State.setTblptr_periphIn (v : BitVec 22) : (s.setTblptr v).periphIn = s.periphIn := rfl
@[simp] theorem State.setTblptr_periphOut (v : BitVec 22) : (s.setTblptr v).periphOut = s.periphOut := rfl
@[simp] theorem State.setTblptr_freeCtr (v : BitVec 22) : (s.setTblptr v).freeCtr = s.freeCtr := rfl
@[simp] theorem State.setTblptr_cfg (v : BitVec 22) : (s.setTblptr v).cfg = s.cfg := rfl
@[simp] theorem State.setTblptr_fsr (v : BitVec 22) (i : FsrIdx) : (s.setTblptr v).fsr i = s.fsr i := by cases i <;> rfl

@[simp] theorem State.setTablat_w (v : Byte) : (s.setTablat v).w = s.w := rfl
@[simp] theorem State.setTablat_flags (v : Byte) : (s.setTablat v).flags = s.flags := rfl
@[simp] theorem State.setTablat_bsr (v : Byte) : (s.setTablat v).bsr = s.bsr := rfl
@[simp] theorem State.setTablat_fsr0 (v : Byte) : (s.setTablat v).fsr0 = s.fsr0 := rfl
@[simp] theorem State.setTablat_fsr1 (v : Byte) : (s.setTablat v).fsr1 = s.fsr1 := rfl
@[simp] theorem State.setTablat_fsr2 (v : Byte) : (s.setTablat v).fsr2 = s.fsr2 := rfl
@[simp] theorem State.setTablat_prodh (v : Byte) : (s.setTablat v).prodh = s.prodh := rfl
@[simp] theorem State.setTablat_prodl (v : Byte) : (s.setTablat v).prodl = s.prodl := rfl
@[simp] theorem State.setTablat_tblptr (v : Byte) : (s.setTablat v).tblptr = s.tblptr := rfl
@[simp] theorem State.setTablat_tablat (v : Byte) : (s.setTablat v).tablat = v := rfl
@[simp] theorem State.setTablat_pc (v : Byte) : (s.setTablat v).pc = s.pc := rfl
@[simp] theorem State.setTablat_pclath (v : Byte) : (s.setTablat v).pclath = s.pclath := rfl
@[simp] theorem State.setTablat_pclatu (v : Byte) : (s.setTablat v).pclatu = s.pclatu := rfl
@[simp] theorem State.setTablat_stack (v : Byte) : (s.setTablat v).stack = s.stack := rfl
@[simp] theorem State.setTablat_sp (v : Byte) : (s.setTablat v).sp = s.sp := rfl
@[simp] theorem State.setTablat_stkful (v : Byte) : (s.setTablat v).stkful = s.stkful := rfl
@[simp] theorem State.setTablat_stkunf (v : Byte) : (s.setTablat v).stkunf = s.stkunf := rfl
@[simp] theorem State.setTablat_ws (v : Byte) : (s.setTablat v).ws = s.ws := rfl
@[simp] theorem State.setTablat_statuss (v : Byte) : (s.setTablat v).statuss = s.statuss := rfl
@[simp] theorem State.setTablat_bsrs (v : Byte) : (s.setTablat v).bsrs = s.bsrs := rfl
@[simp] theorem State.setTablat_gieh (v : Byte) : (s.setTablat v).gieh = s.gieh := rfl
@[simp] theorem State.setTablat_giel (v : Byte) : (s.setTablat v).giel = s.giel := rfl
@[simp] theorem State.setTablat_intcon50 (v : Byte) : (s.setTablat v).intcon50 = s.intcon50 := rfl
@[simp] theorem State.setTablat_ipen (v : Byte) : (s.setTablat v).ipen = s.ipen := rfl
@[simp] theorem State.setTablat_lwrt (v : Byte) : (s.setTablat v).lwrt = s.lwrt := rfl
@[simp] theorem State.setTablat_ri (v : Byte) : (s.setTablat v).ri = s.ri := rfl
@[simp] theorem State.setTablat_toBit (v : Byte) : (s.setTablat v).toBit = s.toBit := rfl
@[simp] theorem State.setTablat_pdBit (v : Byte) : (s.setTablat v).pdBit = s.pdBit := rfl
@[simp] theorem State.setTablat_por (v : Byte) : (s.setTablat v).por = s.por := rfl
@[simp] theorem State.setTablat_bor (v : Byte) : (s.setTablat v).bor = s.bor := rfl
@[simp] theorem State.setTablat_asleep (v : Byte) : (s.setTablat v).asleep = s.asleep := rfl
@[simp] theorem State.setTablat_hold0 (v : Byte) : (s.setTablat v).hold0 = s.hold0 := rfl
@[simp] theorem State.setTablat_hold1 (v : Byte) : (s.setTablat v).hold1 = s.hold1 := rfl
@[simp] theorem State.setTablat_dm (v : Byte) : (s.setTablat v).dm = s.dm := rfl
@[simp] theorem State.setTablat_pm (v : Byte) : (s.setTablat v).pm = s.pm := rfl
@[simp] theorem State.setTablat_inputs (v : Byte) : (s.setTablat v).inputs = s.inputs := rfl
@[simp] theorem State.setTablat_heldHigh (v : Byte) : (s.setTablat v).heldHigh = s.heldHigh := rfl
@[simp] theorem State.setTablat_heldLow (v : Byte) : (s.setTablat v).heldLow = s.heldLow := rfl
@[simp] theorem State.setTablat_periphIn (v : Byte) : (s.setTablat v).periphIn = s.periphIn := rfl
@[simp] theorem State.setTablat_periphOut (v : Byte) : (s.setTablat v).periphOut = s.periphOut := rfl
@[simp] theorem State.setTablat_freeCtr (v : Byte) : (s.setTablat v).freeCtr = s.freeCtr := rfl
@[simp] theorem State.setTablat_cfg (v : Byte) : (s.setTablat v).cfg = s.cfg := rfl
@[simp] theorem State.setTablat_fsr (v : Byte) (i : FsrIdx) : (s.setTablat v).fsr i = s.fsr i := by cases i <;> rfl

@[simp] theorem State.setLatches_w (u : BitVec 5) (h : Byte) : (s.setLatches u h).w = s.w := rfl
@[simp] theorem State.setLatches_flags (u : BitVec 5) (h : Byte) : (s.setLatches u h).flags = s.flags := rfl
@[simp] theorem State.setLatches_bsr (u : BitVec 5) (h : Byte) : (s.setLatches u h).bsr = s.bsr := rfl
@[simp] theorem State.setLatches_fsr0 (u : BitVec 5) (h : Byte) : (s.setLatches u h).fsr0 = s.fsr0 := rfl
@[simp] theorem State.setLatches_fsr1 (u : BitVec 5) (h : Byte) : (s.setLatches u h).fsr1 = s.fsr1 := rfl
@[simp] theorem State.setLatches_fsr2 (u : BitVec 5) (h : Byte) : (s.setLatches u h).fsr2 = s.fsr2 := rfl
@[simp] theorem State.setLatches_prodh (u : BitVec 5) (h : Byte) : (s.setLatches u h).prodh = s.prodh := rfl
@[simp] theorem State.setLatches_prodl (u : BitVec 5) (h : Byte) : (s.setLatches u h).prodl = s.prodl := rfl
@[simp] theorem State.setLatches_tblptr (u : BitVec 5) (h : Byte) : (s.setLatches u h).tblptr = s.tblptr := rfl
@[simp] theorem State.setLatches_tablat (u : BitVec 5) (h : Byte) : (s.setLatches u h).tablat = s.tablat := rfl
@[simp] theorem State.setLatches_pc (u : BitVec 5) (h : Byte) : (s.setLatches u h).pc = s.pc := rfl
@[simp] theorem State.setLatches_pclath (u : BitVec 5) (h : Byte) : (s.setLatches u h).pclath = h := rfl
@[simp] theorem State.setLatches_pclatu (u : BitVec 5) (h : Byte) : (s.setLatches u h).pclatu = u := rfl
@[simp] theorem State.setLatches_stack (u : BitVec 5) (h : Byte) : (s.setLatches u h).stack = s.stack := rfl
@[simp] theorem State.setLatches_sp (u : BitVec 5) (h : Byte) : (s.setLatches u h).sp = s.sp := rfl
@[simp] theorem State.setLatches_stkful (u : BitVec 5) (h : Byte) : (s.setLatches u h).stkful = s.stkful := rfl
@[simp] theorem State.setLatches_stkunf (u : BitVec 5) (h : Byte) : (s.setLatches u h).stkunf = s.stkunf := rfl
@[simp] theorem State.setLatches_ws (u : BitVec 5) (h : Byte) : (s.setLatches u h).ws = s.ws := rfl
@[simp] theorem State.setLatches_statuss (u : BitVec 5) (h : Byte) : (s.setLatches u h).statuss = s.statuss := rfl
@[simp] theorem State.setLatches_bsrs (u : BitVec 5) (h : Byte) : (s.setLatches u h).bsrs = s.bsrs := rfl
@[simp] theorem State.setLatches_gieh (u : BitVec 5) (h : Byte) : (s.setLatches u h).gieh = s.gieh := rfl
@[simp] theorem State.setLatches_giel (u : BitVec 5) (h : Byte) : (s.setLatches u h).giel = s.giel := rfl
@[simp] theorem State.setLatches_intcon50 (u : BitVec 5) (h : Byte) : (s.setLatches u h).intcon50 = s.intcon50 := rfl
@[simp] theorem State.setLatches_ipen (u : BitVec 5) (h : Byte) : (s.setLatches u h).ipen = s.ipen := rfl
@[simp] theorem State.setLatches_lwrt (u : BitVec 5) (h : Byte) : (s.setLatches u h).lwrt = s.lwrt := rfl
@[simp] theorem State.setLatches_ri (u : BitVec 5) (h : Byte) : (s.setLatches u h).ri = s.ri := rfl
@[simp] theorem State.setLatches_toBit (u : BitVec 5) (h : Byte) : (s.setLatches u h).toBit = s.toBit := rfl
@[simp] theorem State.setLatches_pdBit (u : BitVec 5) (h : Byte) : (s.setLatches u h).pdBit = s.pdBit := rfl
@[simp] theorem State.setLatches_por (u : BitVec 5) (h : Byte) : (s.setLatches u h).por = s.por := rfl
@[simp] theorem State.setLatches_bor (u : BitVec 5) (h : Byte) : (s.setLatches u h).bor = s.bor := rfl
@[simp] theorem State.setLatches_asleep (u : BitVec 5) (h : Byte) : (s.setLatches u h).asleep = s.asleep := rfl
@[simp] theorem State.setLatches_hold0 (u : BitVec 5) (h : Byte) : (s.setLatches u h).hold0 = s.hold0 := rfl
@[simp] theorem State.setLatches_hold1 (u : BitVec 5) (h : Byte) : (s.setLatches u h).hold1 = s.hold1 := rfl
@[simp] theorem State.setLatches_dm (u : BitVec 5) (h : Byte) : (s.setLatches u h).dm = s.dm := rfl
@[simp] theorem State.setLatches_pm (u : BitVec 5) (h : Byte) : (s.setLatches u h).pm = s.pm := rfl
@[simp] theorem State.setLatches_inputs (u : BitVec 5) (h : Byte) : (s.setLatches u h).inputs = s.inputs := rfl
@[simp] theorem State.setLatches_heldHigh (u : BitVec 5) (h : Byte) : (s.setLatches u h).heldHigh = s.heldHigh := rfl
@[simp] theorem State.setLatches_heldLow (u : BitVec 5) (h : Byte) : (s.setLatches u h).heldLow = s.heldLow := rfl
@[simp] theorem State.setLatches_periphIn (u : BitVec 5) (h : Byte) : (s.setLatches u h).periphIn = s.periphIn := rfl
@[simp] theorem State.setLatches_periphOut (u : BitVec 5) (h : Byte) : (s.setLatches u h).periphOut = s.periphOut := rfl
@[simp] theorem State.setLatches_freeCtr (u : BitVec 5) (h : Byte) : (s.setLatches u h).freeCtr = s.freeCtr := rfl
@[simp] theorem State.setLatches_cfg (u : BitVec 5) (h : Byte) : (s.setLatches u h).cfg = s.cfg := rfl
@[simp] theorem State.setLatches_fsr (u : BitVec 5) (h : Byte) (i : FsrIdx) : (s.setLatches u h).fsr i = s.fsr i := by cases i <;> rfl

@[simp] theorem State.setDm_w (v : Memory) : (s.setDm v).w = s.w := rfl
@[simp] theorem State.setDm_flags (v : Memory) : (s.setDm v).flags = s.flags := rfl
@[simp] theorem State.setDm_bsr (v : Memory) : (s.setDm v).bsr = s.bsr := rfl
@[simp] theorem State.setDm_fsr0 (v : Memory) : (s.setDm v).fsr0 = s.fsr0 := rfl
@[simp] theorem State.setDm_fsr1 (v : Memory) : (s.setDm v).fsr1 = s.fsr1 := rfl
@[simp] theorem State.setDm_fsr2 (v : Memory) : (s.setDm v).fsr2 = s.fsr2 := rfl
@[simp] theorem State.setDm_prodh (v : Memory) : (s.setDm v).prodh = s.prodh := rfl
@[simp] theorem State.setDm_prodl (v : Memory) : (s.setDm v).prodl = s.prodl := rfl
@[simp] theorem State.setDm_tblptr (v : Memory) : (s.setDm v).tblptr = s.tblptr := rfl
@[simp] theorem State.setDm_tablat (v : Memory) : (s.setDm v).tablat = s.tablat := rfl
@[simp] theorem State.setDm_pc (v : Memory) : (s.setDm v).pc = s.pc := rfl
@[simp] theorem State.setDm_pclath (v : Memory) : (s.setDm v).pclath = s.pclath := rfl
@[simp] theorem State.setDm_pclatu (v : Memory) : (s.setDm v).pclatu = s.pclatu := rfl
@[simp] theorem State.setDm_stack (v : Memory) : (s.setDm v).stack = s.stack := rfl
@[simp] theorem State.setDm_sp (v : Memory) : (s.setDm v).sp = s.sp := rfl
@[simp] theorem State.setDm_stkful (v : Memory) : (s.setDm v).stkful = s.stkful := rfl
@[simp] theorem State.setDm_stkunf (v : Memory) : (s.setDm v).stkunf = s.stkunf := rfl
@[simp] theorem State.setDm_ws (v : Memory) : (s.setDm v).ws = s.ws := rfl
@[simp] theorem State.setDm_statuss (v : Memory) : (s.setDm v).statuss = s.statuss := rfl
@[simp] theorem State.setDm_bsrs (v : Memory) : (s.setDm v).bsrs = s.bsrs := rfl
@[simp] theorem State.setDm_gieh (v : Memory) : (s.setDm v).gieh = s.gieh := rfl
@[simp] theorem State.setDm_giel (v : Memory) : (s.setDm v).giel = s.giel := rfl
@[simp] theorem State.setDm_intcon50 (v : Memory) : (s.setDm v).intcon50 = s.intcon50 := rfl
@[simp] theorem State.setDm_ipen (v : Memory) : (s.setDm v).ipen = s.ipen := rfl
@[simp] theorem State.setDm_lwrt (v : Memory) : (s.setDm v).lwrt = s.lwrt := rfl
@[simp] theorem State.setDm_ri (v : Memory) : (s.setDm v).ri = s.ri := rfl
@[simp] theorem State.setDm_toBit (v : Memory) : (s.setDm v).toBit = s.toBit := rfl
@[simp] theorem State.setDm_pdBit (v : Memory) : (s.setDm v).pdBit = s.pdBit := rfl
@[simp] theorem State.setDm_por (v : Memory) : (s.setDm v).por = s.por := rfl
@[simp] theorem State.setDm_bor (v : Memory) : (s.setDm v).bor = s.bor := rfl
@[simp] theorem State.setDm_asleep (v : Memory) : (s.setDm v).asleep = s.asleep := rfl
@[simp] theorem State.setDm_hold0 (v : Memory) : (s.setDm v).hold0 = s.hold0 := rfl
@[simp] theorem State.setDm_hold1 (v : Memory) : (s.setDm v).hold1 = s.hold1 := rfl
@[simp] theorem State.setDm_dm (v : Memory) : (s.setDm v).dm = v := rfl
@[simp] theorem State.setDm_pm (v : Memory) : (s.setDm v).pm = s.pm := rfl
@[simp] theorem State.setDm_inputs (v : Memory) : (s.setDm v).inputs = s.inputs := rfl
@[simp] theorem State.setDm_heldHigh (v : Memory) : (s.setDm v).heldHigh = s.heldHigh := rfl
@[simp] theorem State.setDm_heldLow (v : Memory) : (s.setDm v).heldLow = s.heldLow := rfl
@[simp] theorem State.setDm_periphIn (v : Memory) : (s.setDm v).periphIn = s.periphIn := rfl
@[simp] theorem State.setDm_periphOut (v : Memory) : (s.setDm v).periphOut = s.periphOut := rfl
@[simp] theorem State.setDm_freeCtr (v : Memory) : (s.setDm v).freeCtr = s.freeCtr := rfl
@[simp] theorem State.setDm_cfg (v : Memory) : (s.setDm v).cfg = s.cfg := rfl
@[simp] theorem State.setDm_fsr (v : Memory) (i : FsrIdx) : (s.setDm v).fsr i = s.fsr i := by cases i <;> rfl

@[simp] theorem State.setStack_w (v : Vector (BitVec 21) 31) : (s.setStack v).w = s.w := rfl
@[simp] theorem State.setStack_flags (v : Vector (BitVec 21) 31) : (s.setStack v).flags = s.flags := rfl
@[simp] theorem State.setStack_bsr (v : Vector (BitVec 21) 31) : (s.setStack v).bsr = s.bsr := rfl
@[simp] theorem State.setStack_fsr0 (v : Vector (BitVec 21) 31) : (s.setStack v).fsr0 = s.fsr0 := rfl
@[simp] theorem State.setStack_fsr1 (v : Vector (BitVec 21) 31) : (s.setStack v).fsr1 = s.fsr1 := rfl
@[simp] theorem State.setStack_fsr2 (v : Vector (BitVec 21) 31) : (s.setStack v).fsr2 = s.fsr2 := rfl
@[simp] theorem State.setStack_prodh (v : Vector (BitVec 21) 31) : (s.setStack v).prodh = s.prodh := rfl
@[simp] theorem State.setStack_prodl (v : Vector (BitVec 21) 31) : (s.setStack v).prodl = s.prodl := rfl
@[simp] theorem State.setStack_tblptr (v : Vector (BitVec 21) 31) : (s.setStack v).tblptr = s.tblptr := rfl
@[simp] theorem State.setStack_tablat (v : Vector (BitVec 21) 31) : (s.setStack v).tablat = s.tablat := rfl
@[simp] theorem State.setStack_pc (v : Vector (BitVec 21) 31) : (s.setStack v).pc = s.pc := rfl
@[simp] theorem State.setStack_pclath (v : Vector (BitVec 21) 31) : (s.setStack v).pclath = s.pclath := rfl
@[simp] theorem State.setStack_pclatu (v : Vector (BitVec 21) 31) : (s.setStack v).pclatu = s.pclatu := rfl
@[simp] theorem State.setStack_stack (v : Vector (BitVec 21) 31) : (s.setStack v).stack = v := rfl
@[simp] theorem State.setStack_sp (v : Vector (BitVec 21) 31) : (s.setStack v).sp = s.sp := rfl
@[simp] theorem State.setStack_stkful (v : Vector (BitVec 21) 31) : (s.setStack v).stkful = s.stkful := rfl
@[simp] theorem State.setStack_stkunf (v : Vector (BitVec 21) 31) : (s.setStack v).stkunf = s.stkunf := rfl
@[simp] theorem State.setStack_ws (v : Vector (BitVec 21) 31) : (s.setStack v).ws = s.ws := rfl
@[simp] theorem State.setStack_statuss (v : Vector (BitVec 21) 31) : (s.setStack v).statuss = s.statuss := rfl
@[simp] theorem State.setStack_bsrs (v : Vector (BitVec 21) 31) : (s.setStack v).bsrs = s.bsrs := rfl
@[simp] theorem State.setStack_gieh (v : Vector (BitVec 21) 31) : (s.setStack v).gieh = s.gieh := rfl
@[simp] theorem State.setStack_giel (v : Vector (BitVec 21) 31) : (s.setStack v).giel = s.giel := rfl
@[simp] theorem State.setStack_intcon50 (v : Vector (BitVec 21) 31) : (s.setStack v).intcon50 = s.intcon50 := rfl
@[simp] theorem State.setStack_ipen (v : Vector (BitVec 21) 31) : (s.setStack v).ipen = s.ipen := rfl
@[simp] theorem State.setStack_lwrt (v : Vector (BitVec 21) 31) : (s.setStack v).lwrt = s.lwrt := rfl
@[simp] theorem State.setStack_ri (v : Vector (BitVec 21) 31) : (s.setStack v).ri = s.ri := rfl
@[simp] theorem State.setStack_toBit (v : Vector (BitVec 21) 31) : (s.setStack v).toBit = s.toBit := rfl
@[simp] theorem State.setStack_pdBit (v : Vector (BitVec 21) 31) : (s.setStack v).pdBit = s.pdBit := rfl
@[simp] theorem State.setStack_por (v : Vector (BitVec 21) 31) : (s.setStack v).por = s.por := rfl
@[simp] theorem State.setStack_bor (v : Vector (BitVec 21) 31) : (s.setStack v).bor = s.bor := rfl
@[simp] theorem State.setStack_asleep (v : Vector (BitVec 21) 31) : (s.setStack v).asleep = s.asleep := rfl
@[simp] theorem State.setStack_hold0 (v : Vector (BitVec 21) 31) : (s.setStack v).hold0 = s.hold0 := rfl
@[simp] theorem State.setStack_hold1 (v : Vector (BitVec 21) 31) : (s.setStack v).hold1 = s.hold1 := rfl
@[simp] theorem State.setStack_dm (v : Vector (BitVec 21) 31) : (s.setStack v).dm = s.dm := rfl
@[simp] theorem State.setStack_pm (v : Vector (BitVec 21) 31) : (s.setStack v).pm = s.pm := rfl
@[simp] theorem State.setStack_inputs (v : Vector (BitVec 21) 31) : (s.setStack v).inputs = s.inputs := rfl
@[simp] theorem State.setStack_heldHigh (v : Vector (BitVec 21) 31) : (s.setStack v).heldHigh = s.heldHigh := rfl
@[simp] theorem State.setStack_heldLow (v : Vector (BitVec 21) 31) : (s.setStack v).heldLow = s.heldLow := rfl
@[simp] theorem State.setStack_periphIn (v : Vector (BitVec 21) 31) : (s.setStack v).periphIn = s.periphIn := rfl
@[simp] theorem State.setStack_periphOut (v : Vector (BitVec 21) 31) : (s.setStack v).periphOut = s.periphOut := rfl
@[simp] theorem State.setStack_freeCtr (v : Vector (BitVec 21) 31) : (s.setStack v).freeCtr = s.freeCtr := rfl
@[simp] theorem State.setStack_cfg (v : Vector (BitVec 21) 31) : (s.setStack v).cfg = s.cfg := rfl
@[simp] theorem State.setStack_fsr (v : Vector (BitVec 21) 31) (i : FsrIdx) : (s.setStack v).fsr i = s.fsr i := by cases i <;> rfl

@[simp] theorem State.setSp_w (v : BitVec 5) : (s.setSp v).w = s.w := rfl
@[simp] theorem State.setSp_flags (v : BitVec 5) : (s.setSp v).flags = s.flags := rfl
@[simp] theorem State.setSp_bsr (v : BitVec 5) : (s.setSp v).bsr = s.bsr := rfl
@[simp] theorem State.setSp_fsr0 (v : BitVec 5) : (s.setSp v).fsr0 = s.fsr0 := rfl
@[simp] theorem State.setSp_fsr1 (v : BitVec 5) : (s.setSp v).fsr1 = s.fsr1 := rfl
@[simp] theorem State.setSp_fsr2 (v : BitVec 5) : (s.setSp v).fsr2 = s.fsr2 := rfl
@[simp] theorem State.setSp_prodh (v : BitVec 5) : (s.setSp v).prodh = s.prodh := rfl
@[simp] theorem State.setSp_prodl (v : BitVec 5) : (s.setSp v).prodl = s.prodl := rfl
@[simp] theorem State.setSp_tblptr (v : BitVec 5) : (s.setSp v).tblptr = s.tblptr := rfl
@[simp] theorem State.setSp_tablat (v : BitVec 5) : (s.setSp v).tablat = s.tablat := rfl
@[simp] theorem State.setSp_pc (v : BitVec 5) : (s.setSp v).pc = s.pc := rfl
@[simp] theorem State.setSp_pclath (v : BitVec 5) : (s.setSp v).pclath = s.pclath := rfl
@[simp] theorem State.setSp_pclatu (v : BitVec 5) : (s.setSp v).pclatu = s.pclatu := rfl
@[simp] theorem State.setSp_stack (v : BitVec 5) : (s.setSp v).stack = s.stack := rfl
@[simp] theorem State.setSp_sp (v : BitVec 5) : (s.setSp v).sp = v := rfl
@[simp] theorem State.setSp_stkful (v : BitVec 5) : (s.setSp v).stkful = s.stkful := rfl
@[simp] theorem State.setSp_stkunf (v : BitVec 5) : (s.setSp v).stkunf = s.stkunf := rfl
@[simp] theorem State.setSp_ws (v : BitVec 5) : (s.setSp v).ws = s.ws := rfl
@[simp] theorem State.setSp_statuss (v : BitVec 5) : (s.setSp v).statuss = s.statuss := rfl
@[simp] theorem State.setSp_bsrs (v : BitVec 5) : (s.setSp v).bsrs = s.bsrs := rfl
@[simp] theorem State.setSp_gieh (v : BitVec 5) : (s.setSp v).gieh = s.gieh := rfl
@[simp] theorem State.setSp_giel (v : BitVec 5) : (s.setSp v).giel = s.giel := rfl
@[simp] theorem State.setSp_intcon50 (v : BitVec 5) : (s.setSp v).intcon50 = s.intcon50 := rfl
@[simp] theorem State.setSp_ipen (v : BitVec 5) : (s.setSp v).ipen = s.ipen := rfl
@[simp] theorem State.setSp_lwrt (v : BitVec 5) : (s.setSp v).lwrt = s.lwrt := rfl
@[simp] theorem State.setSp_ri (v : BitVec 5) : (s.setSp v).ri = s.ri := rfl
@[simp] theorem State.setSp_toBit (v : BitVec 5) : (s.setSp v).toBit = s.toBit := rfl
@[simp] theorem State.setSp_pdBit (v : BitVec 5) : (s.setSp v).pdBit = s.pdBit := rfl
@[simp] theorem State.setSp_por (v : BitVec 5) : (s.setSp v).por = s.por := rfl
@[simp] theorem State.setSp_bor (v : BitVec 5) : (s.setSp v).bor = s.bor := rfl
@[simp] theorem State.setSp_asleep (v : BitVec 5) : (s.setSp v).asleep = s.asleep := rfl
@[simp] theorem State.setSp_hold0 (v : BitVec 5) : (s.setSp v).hold0 = s.hold0 := rfl
@[simp] theorem State.setSp_hold1 (v : BitVec 5) : (s.setSp v).hold1 = s.hold1 := rfl
@[simp] theorem State.setSp_dm (v : BitVec 5) : (s.setSp v).dm = s.dm := rfl
@[simp] theorem State.setSp_pm (v : BitVec 5) : (s.setSp v).pm = s.pm := rfl
@[simp] theorem State.setSp_inputs (v : BitVec 5) : (s.setSp v).inputs = s.inputs := rfl
@[simp] theorem State.setSp_heldHigh (v : BitVec 5) : (s.setSp v).heldHigh = s.heldHigh := rfl
@[simp] theorem State.setSp_heldLow (v : BitVec 5) : (s.setSp v).heldLow = s.heldLow := rfl
@[simp] theorem State.setSp_periphIn (v : BitVec 5) : (s.setSp v).periphIn = s.periphIn := rfl
@[simp] theorem State.setSp_periphOut (v : BitVec 5) : (s.setSp v).periphOut = s.periphOut := rfl
@[simp] theorem State.setSp_freeCtr (v : BitVec 5) : (s.setSp v).freeCtr = s.freeCtr := rfl
@[simp] theorem State.setSp_cfg (v : BitVec 5) : (s.setSp v).cfg = s.cfg := rfl
@[simp] theorem State.setSp_fsr (v : BitVec 5) (i : FsrIdx) : (s.setSp v).fsr i = s.fsr i := by cases i <;> rfl

@[simp] theorem State.setStkful_w (v : Bool) : (s.setStkful v).w = s.w := rfl
@[simp] theorem State.setStkful_flags (v : Bool) : (s.setStkful v).flags = s.flags := rfl
@[simp] theorem State.setStkful_bsr (v : Bool) : (s.setStkful v).bsr = s.bsr := rfl
@[simp] theorem State.setStkful_fsr0 (v : Bool) : (s.setStkful v).fsr0 = s.fsr0 := rfl
@[simp] theorem State.setStkful_fsr1 (v : Bool) : (s.setStkful v).fsr1 = s.fsr1 := rfl
@[simp] theorem State.setStkful_fsr2 (v : Bool) : (s.setStkful v).fsr2 = s.fsr2 := rfl
@[simp] theorem State.setStkful_prodh (v : Bool) : (s.setStkful v).prodh = s.prodh := rfl
@[simp] theorem State.setStkful_prodl (v : Bool) : (s.setStkful v).prodl = s.prodl := rfl
@[simp] theorem State.setStkful_tblptr (v : Bool) : (s.setStkful v).tblptr = s.tblptr := rfl
@[simp] theorem State.setStkful_tablat (v : Bool) : (s.setStkful v).tablat = s.tablat := rfl
@[simp] theorem State.setStkful_pc (v : Bool) : (s.setStkful v).pc = s.pc := rfl
@[simp] theorem State.setStkful_pclath (v : Bool) : (s.setStkful v).pclath = s.pclath := rfl
@[simp] theorem State.setStkful_pclatu (v : Bool) : (s.setStkful v).pclatu = s.pclatu := rfl
@[simp] theorem State.setStkful_stack (v : Bool) : (s.setStkful v).stack = s.stack := rfl
@[simp] theorem State.setStkful_sp (v : Bool) : (s.setStkful v).sp = s.sp := rfl
@[simp] theorem State.setStkful_stkful (v : Bool) : (s.setStkful v).stkful = v := rfl
@[simp] theorem State.setStkful_stkunf (v : Bool) : (s.setStkful v).stkunf = s.stkunf := rfl
@[simp] theorem State.setStkful_ws (v : Bool) : (s.setStkful v).ws = s.ws := rfl
@[simp] theorem State.setStkful_statuss (v : Bool) : (s.setStkful v).statuss = s.statuss := rfl
@[simp] theorem State.setStkful_bsrs (v : Bool) : (s.setStkful v).bsrs = s.bsrs := rfl
@[simp] theorem State.setStkful_gieh (v : Bool) : (s.setStkful v).gieh = s.gieh := rfl
@[simp] theorem State.setStkful_giel (v : Bool) : (s.setStkful v).giel = s.giel := rfl
@[simp] theorem State.setStkful_intcon50 (v : Bool) : (s.setStkful v).intcon50 = s.intcon50 := rfl
@[simp] theorem State.setStkful_ipen (v : Bool) : (s.setStkful v).ipen = s.ipen := rfl
@[simp] theorem State.setStkful_lwrt (v : Bool) : (s.setStkful v).lwrt = s.lwrt := rfl
@[simp] theorem State.setStkful_ri (v : Bool) : (s.setStkful v).ri = s.ri := rfl
@[simp] theorem State.setStkful_toBit (v : Bool) : (s.setStkful v).toBit = s.toBit := rfl
@[simp] theorem State.setStkful_pdBit (v : Bool) : (s.setStkful v).pdBit = s.pdBit := rfl
@[simp] theorem State.setStkful_por (v : Bool) : (s.setStkful v).por = s.por := rfl
@[simp] theorem State.setStkful_bor (v : Bool) : (s.setStkful v).bor = s.bor := rfl
@[simp] theorem State.setStkful_asleep (v : Bool) : (s.setStkful v).asleep = s.asleep := rfl
@[simp] theorem State.setStkful_hold0 (v : Bool) : (s.setStkful v).hold0 = s.hold0 := rfl
@[simp] theorem State.setStkful_hold1 (v : Bool) : (s.setStkful v).hold1 = s.hold1 := rfl
@[simp] theorem State.setStkful_dm (v : Bool) : (s.setStkful v).dm = s.dm := rfl
@[simp] theorem State.setStkful_pm (v : Bool) : (s.setStkful v).pm = s.pm := rfl
@[simp] theorem State.setStkful_inputs (v : Bool) : (s.setStkful v).inputs = s.inputs := rfl
@[simp] theorem State.setStkful_heldHigh (v : Bool) : (s.setStkful v).heldHigh = s.heldHigh := rfl
@[simp] theorem State.setStkful_heldLow (v : Bool) : (s.setStkful v).heldLow = s.heldLow := rfl
@[simp] theorem State.setStkful_periphIn (v : Bool) : (s.setStkful v).periphIn = s.periphIn := rfl
@[simp] theorem State.setStkful_periphOut (v : Bool) : (s.setStkful v).periphOut = s.periphOut := rfl
@[simp] theorem State.setStkful_freeCtr (v : Bool) : (s.setStkful v).freeCtr = s.freeCtr := rfl
@[simp] theorem State.setStkful_cfg (v : Bool) : (s.setStkful v).cfg = s.cfg := rfl
@[simp] theorem State.setStkful_fsr (v : Bool) (i : FsrIdx) : (s.setStkful v).fsr i = s.fsr i := by cases i <;> rfl

@[simp] theorem State.setStkunf_w (v : Bool) : (s.setStkunf v).w = s.w := rfl
@[simp] theorem State.setStkunf_flags (v : Bool) : (s.setStkunf v).flags = s.flags := rfl
@[simp] theorem State.setStkunf_bsr (v : Bool) : (s.setStkunf v).bsr = s.bsr := rfl
@[simp] theorem State.setStkunf_fsr0 (v : Bool) : (s.setStkunf v).fsr0 = s.fsr0 := rfl
@[simp] theorem State.setStkunf_fsr1 (v : Bool) : (s.setStkunf v).fsr1 = s.fsr1 := rfl
@[simp] theorem State.setStkunf_fsr2 (v : Bool) : (s.setStkunf v).fsr2 = s.fsr2 := rfl
@[simp] theorem State.setStkunf_prodh (v : Bool) : (s.setStkunf v).prodh = s.prodh := rfl
@[simp] theorem State.setStkunf_prodl (v : Bool) : (s.setStkunf v).prodl = s.prodl := rfl
@[simp] theorem State.setStkunf_tblptr (v : Bool) : (s.setStkunf v).tblptr = s.tblptr := rfl
@[simp] theorem State.setStkunf_tablat (v : Bool) : (s.setStkunf v).tablat = s.tablat := rfl
@[simp] theorem State.setStkunf_pc (v : Bool) : (s.setStkunf v).pc = s.pc := rfl
@[simp] theorem State.setStkunf_pclath (v : Bool) : (s.setStkunf v).pclath = s.pclath := rfl
@[simp] theorem State.setStkunf_pclatu (v : Bool) : (s.setStkunf v).pclatu = s.pclatu := rfl
@[simp] theorem State.setStkunf_stack (v : Bool) : (s.setStkunf v).stack = s.stack := rfl
@[simp] theorem State.setStkunf_sp (v : Bool) : (s.setStkunf v).sp = s.sp := rfl
@[simp] theorem State.setStkunf_stkful (v : Bool) : (s.setStkunf v).stkful = s.stkful := rfl
@[simp] theorem State.setStkunf_stkunf (v : Bool) : (s.setStkunf v).stkunf = v := rfl
@[simp] theorem State.setStkunf_ws (v : Bool) : (s.setStkunf v).ws = s.ws := rfl
@[simp] theorem State.setStkunf_statuss (v : Bool) : (s.setStkunf v).statuss = s.statuss := rfl
@[simp] theorem State.setStkunf_bsrs (v : Bool) : (s.setStkunf v).bsrs = s.bsrs := rfl
@[simp] theorem State.setStkunf_gieh (v : Bool) : (s.setStkunf v).gieh = s.gieh := rfl
@[simp] theorem State.setStkunf_giel (v : Bool) : (s.setStkunf v).giel = s.giel := rfl
@[simp] theorem State.setStkunf_intcon50 (v : Bool) : (s.setStkunf v).intcon50 = s.intcon50 := rfl
@[simp] theorem State.setStkunf_ipen (v : Bool) : (s.setStkunf v).ipen = s.ipen := rfl
@[simp] theorem State.setStkunf_lwrt (v : Bool) : (s.setStkunf v).lwrt = s.lwrt := rfl
@[simp] theorem State.setStkunf_ri (v : Bool) : (s.setStkunf v).ri = s.ri := rfl
@[simp] theorem State.setStkunf_toBit (v : Bool) : (s.setStkunf v).toBit = s.toBit := rfl
@[simp] theorem State.setStkunf_pdBit (v : Bool) : (s.setStkunf v).pdBit = s.pdBit := rfl
@[simp] theorem State.setStkunf_por (v : Bool) : (s.setStkunf v).por = s.por := rfl
@[simp] theorem State.setStkunf_bor (v : Bool) : (s.setStkunf v).bor = s.bor := rfl
@[simp] theorem State.setStkunf_asleep (v : Bool) : (s.setStkunf v).asleep = s.asleep := rfl
@[simp] theorem State.setStkunf_hold0 (v : Bool) : (s.setStkunf v).hold0 = s.hold0 := rfl
@[simp] theorem State.setStkunf_hold1 (v : Bool) : (s.setStkunf v).hold1 = s.hold1 := rfl
@[simp] theorem State.setStkunf_dm (v : Bool) : (s.setStkunf v).dm = s.dm := rfl
@[simp] theorem State.setStkunf_pm (v : Bool) : (s.setStkunf v).pm = s.pm := rfl
@[simp] theorem State.setStkunf_inputs (v : Bool) : (s.setStkunf v).inputs = s.inputs := rfl
@[simp] theorem State.setStkunf_heldHigh (v : Bool) : (s.setStkunf v).heldHigh = s.heldHigh := rfl
@[simp] theorem State.setStkunf_heldLow (v : Bool) : (s.setStkunf v).heldLow = s.heldLow := rfl
@[simp] theorem State.setStkunf_periphIn (v : Bool) : (s.setStkunf v).periphIn = s.periphIn := rfl
@[simp] theorem State.setStkunf_periphOut (v : Bool) : (s.setStkunf v).periphOut = s.periphOut := rfl
@[simp] theorem State.setStkunf_freeCtr (v : Bool) : (s.setStkunf v).freeCtr = s.freeCtr := rfl
@[simp] theorem State.setStkunf_cfg (v : Bool) : (s.setStkunf v).cfg = s.cfg := rfl
@[simp] theorem State.setStkunf_fsr (v : Bool) (i : FsrIdx) : (s.setStkunf v).fsr i = s.fsr i := by cases i <;> rfl

@[simp] theorem State.setGieh_w (v : Bool) : (s.setGieh v).w = s.w := rfl
@[simp] theorem State.setGieh_flags (v : Bool) : (s.setGieh v).flags = s.flags := rfl
@[simp] theorem State.setGieh_bsr (v : Bool) : (s.setGieh v).bsr = s.bsr := rfl
@[simp] theorem State.setGieh_fsr0 (v : Bool) : (s.setGieh v).fsr0 = s.fsr0 := rfl
@[simp] theorem State.setGieh_fsr1 (v : Bool) : (s.setGieh v).fsr1 = s.fsr1 := rfl
@[simp] theorem State.setGieh_fsr2 (v : Bool) : (s.setGieh v).fsr2 = s.fsr2 := rfl
@[simp] theorem State.setGieh_prodh (v : Bool) : (s.setGieh v).prodh = s.prodh := rfl
@[simp] theorem State.setGieh_prodl (v : Bool) : (s.setGieh v).prodl = s.prodl := rfl
@[simp] theorem State.setGieh_tblptr (v : Bool) : (s.setGieh v).tblptr = s.tblptr := rfl
@[simp] theorem State.setGieh_tablat (v : Bool) : (s.setGieh v).tablat = s.tablat := rfl
@[simp] theorem State.setGieh_pc (v : Bool) : (s.setGieh v).pc = s.pc := rfl
@[simp] theorem State.setGieh_pclath (v : Bool) : (s.setGieh v).pclath = s.pclath := rfl
@[simp] theorem State.setGieh_pclatu (v : Bool) : (s.setGieh v).pclatu = s.pclatu := rfl
@[simp] theorem State.setGieh_stack (v : Bool) : (s.setGieh v).stack = s.stack := rfl
@[simp] theorem State.setGieh_sp (v : Bool) : (s.setGieh v).sp = s.sp := rfl
@[simp] theorem State.setGieh_stkful (v : Bool) : (s.setGieh v).stkful = s.stkful := rfl
@[simp] theorem State.setGieh_stkunf (v : Bool) : (s.setGieh v).stkunf = s.stkunf := rfl
@[simp] theorem State.setGieh_ws (v : Bool) : (s.setGieh v).ws = s.ws := rfl
@[simp] theorem State.setGieh_statuss (v : Bool) : (s.setGieh v).statuss = s.statuss := rfl
@[simp] theorem State.setGieh_bsrs (v : Bool) : (s.setGieh v).bsrs = s.bsrs := rfl
@[simp] theorem State.setGieh_gieh (v : Bool) : (s.setGieh v).gieh = v := rfl
@[simp] theorem State.setGieh_giel (v : Bool) : (s.setGieh v).giel = s.giel := rfl
@[simp] theorem State.setGieh_intcon50 (v : Bool) : (s.setGieh v).intcon50 = s.intcon50 := rfl
@[simp] theorem State.setGieh_ipen (v : Bool) : (s.setGieh v).ipen = s.ipen := rfl
@[simp] theorem State.setGieh_lwrt (v : Bool) : (s.setGieh v).lwrt = s.lwrt := rfl
@[simp] theorem State.setGieh_ri (v : Bool) : (s.setGieh v).ri = s.ri := rfl
@[simp] theorem State.setGieh_toBit (v : Bool) : (s.setGieh v).toBit = s.toBit := rfl
@[simp] theorem State.setGieh_pdBit (v : Bool) : (s.setGieh v).pdBit = s.pdBit := rfl
@[simp] theorem State.setGieh_por (v : Bool) : (s.setGieh v).por = s.por := rfl
@[simp] theorem State.setGieh_bor (v : Bool) : (s.setGieh v).bor = s.bor := rfl
@[simp] theorem State.setGieh_asleep (v : Bool) : (s.setGieh v).asleep = s.asleep := rfl
@[simp] theorem State.setGieh_hold0 (v : Bool) : (s.setGieh v).hold0 = s.hold0 := rfl
@[simp] theorem State.setGieh_hold1 (v : Bool) : (s.setGieh v).hold1 = s.hold1 := rfl
@[simp] theorem State.setGieh_dm (v : Bool) : (s.setGieh v).dm = s.dm := rfl
@[simp] theorem State.setGieh_pm (v : Bool) : (s.setGieh v).pm = s.pm := rfl
@[simp] theorem State.setGieh_inputs (v : Bool) : (s.setGieh v).inputs = s.inputs := rfl
@[simp] theorem State.setGieh_heldHigh (v : Bool) : (s.setGieh v).heldHigh = s.heldHigh := rfl
@[simp] theorem State.setGieh_heldLow (v : Bool) : (s.setGieh v).heldLow = s.heldLow := rfl
@[simp] theorem State.setGieh_periphIn (v : Bool) : (s.setGieh v).periphIn = s.periphIn := rfl
@[simp] theorem State.setGieh_periphOut (v : Bool) : (s.setGieh v).periphOut = s.periphOut := rfl
@[simp] theorem State.setGieh_freeCtr (v : Bool) : (s.setGieh v).freeCtr = s.freeCtr := rfl
@[simp] theorem State.setGieh_cfg (v : Bool) : (s.setGieh v).cfg = s.cfg := rfl
@[simp] theorem State.setGieh_fsr (v : Bool) (i : FsrIdx) : (s.setGieh v).fsr i = s.fsr i := by cases i <;> rfl

@[simp] theorem State.setGiel_w (v : Bool) : (s.setGiel v).w = s.w := rfl
@[simp] theorem State.setGiel_flags (v : Bool) : (s.setGiel v).flags = s.flags := rfl
@[simp] theorem State.setGiel_bsr (v : Bool) : (s.setGiel v).bsr = s.bsr := rfl
@[simp] theorem State.setGiel_fsr0 (v : Bool) : (s.setGiel v).fsr0 = s.fsr0 := rfl
@[simp] theorem State.setGiel_fsr1 (v : Bool) : (s.setGiel v).fsr1 = s.fsr1 := rfl
@[simp] theorem State.setGiel_fsr2 (v : Bool) : (s.setGiel v).fsr2 = s.fsr2 := rfl
@[simp] theorem State.setGiel_prodh (v : Bool) : (s.setGiel v).prodh = s.prodh := rfl
@[simp] theorem State.setGiel_prodl (v : Bool) : (s.setGiel v).prodl = s.prodl := rfl
@[simp] theorem State.setGiel_tblptr (v : Bool) : (s.setGiel v).tblptr = s.tblptr := rfl
@[simp] theorem State.setGiel_tablat (v : Bool) : (s.setGiel v).tablat = s.tablat := rfl
@[simp] theorem State.setGiel_pc (v : Bool) : (s.setGiel v).pc = s.pc := rfl
@[simp] theorem State.setGiel_pclath (v : Bool) : (s.setGiel v).pclath = s.pclath := rfl
@[simp] theorem State.setGiel_pclatu (v : Bool) : (s.setGiel v).pclatu = s.pclatu := rfl
@[simp] theorem State.setGiel_stack (v : Bool) : (s.setGiel v).stack = s.stack := rfl
@[simp] theorem State.setGiel_sp (v : Bool) : (s.setGiel v).sp = s.sp := rfl
@[simp] theorem State.setGiel_stkful (v : Bool) : (s.setGiel v).stkful = s.stkful := rfl
@[simp] theorem State.setGiel_stkunf (v : Bool) : (s.setGiel v).stkunf = s.stkunf := rfl
@[simp] theorem State.setGiel_ws (v : Bool) : (s.setGiel v).ws = s.ws := rfl
@[simp] theorem State.setGiel_statuss (v : Bool) : (s.setGiel v).statuss = s.statuss := rfl
@[simp] theorem State.setGiel_bsrs (v : Bool) : (s.setGiel v).bsrs = s.bsrs := rfl
@[simp] theorem State.setGiel_gieh (v : Bool) : (s.setGiel v).gieh = s.gieh := rfl
@[simp] theorem State.setGiel_giel (v : Bool) : (s.setGiel v).giel = v := rfl
@[simp] theorem State.setGiel_intcon50 (v : Bool) : (s.setGiel v).intcon50 = s.intcon50 := rfl
@[simp] theorem State.setGiel_ipen (v : Bool) : (s.setGiel v).ipen = s.ipen := rfl
@[simp] theorem State.setGiel_lwrt (v : Bool) : (s.setGiel v).lwrt = s.lwrt := rfl
@[simp] theorem State.setGiel_ri (v : Bool) : (s.setGiel v).ri = s.ri := rfl
@[simp] theorem State.setGiel_toBit (v : Bool) : (s.setGiel v).toBit = s.toBit := rfl
@[simp] theorem State.setGiel_pdBit (v : Bool) : (s.setGiel v).pdBit = s.pdBit := rfl
@[simp] theorem State.setGiel_por (v : Bool) : (s.setGiel v).por = s.por := rfl
@[simp] theorem State.setGiel_bor (v : Bool) : (s.setGiel v).bor = s.bor := rfl
@[simp] theorem State.setGiel_asleep (v : Bool) : (s.setGiel v).asleep = s.asleep := rfl
@[simp] theorem State.setGiel_hold0 (v : Bool) : (s.setGiel v).hold0 = s.hold0 := rfl
@[simp] theorem State.setGiel_hold1 (v : Bool) : (s.setGiel v).hold1 = s.hold1 := rfl
@[simp] theorem State.setGiel_dm (v : Bool) : (s.setGiel v).dm = s.dm := rfl
@[simp] theorem State.setGiel_pm (v : Bool) : (s.setGiel v).pm = s.pm := rfl
@[simp] theorem State.setGiel_inputs (v : Bool) : (s.setGiel v).inputs = s.inputs := rfl
@[simp] theorem State.setGiel_heldHigh (v : Bool) : (s.setGiel v).heldHigh = s.heldHigh := rfl
@[simp] theorem State.setGiel_heldLow (v : Bool) : (s.setGiel v).heldLow = s.heldLow := rfl
@[simp] theorem State.setGiel_periphIn (v : Bool) : (s.setGiel v).periphIn = s.periphIn := rfl
@[simp] theorem State.setGiel_periphOut (v : Bool) : (s.setGiel v).periphOut = s.periphOut := rfl
@[simp] theorem State.setGiel_freeCtr (v : Bool) : (s.setGiel v).freeCtr = s.freeCtr := rfl
@[simp] theorem State.setGiel_cfg (v : Bool) : (s.setGiel v).cfg = s.cfg := rfl
@[simp] theorem State.setGiel_fsr (v : Bool) (i : FsrIdx) : (s.setGiel v).fsr i = s.fsr i := by cases i <;> rfl

@[simp] theorem State.setPower_w (x y : Bool) : (s.setPower x y).w = s.w := rfl
@[simp] theorem State.setPower_flags (x y : Bool) : (s.setPower x y).flags = s.flags := rfl
@[simp] theorem State.setPower_bsr (x y : Bool) : (s.setPower x y).bsr = s.bsr := rfl
@[simp] theorem State.setPower_fsr0 (x y : Bool) : (s.setPower x y).fsr0 = s.fsr0 := rfl
@[simp] theorem State.setPower_fsr1 (x y : Bool) : (s.setPower x y).fsr1 = s.fsr1 := rfl
@[simp] theorem State.setPower_fsr2 (x y : Bool) : (s.setPower x y).fsr2 = s.fsr2 := rfl
@[simp] theorem State.setPower_prodh (x y : Bool) : (s.setPower x y).prodh = s.prodh := rfl
@[simp] theorem State.setPower_prodl (x y : Bool) : (s.setPower x y).prodl = s.prodl := rfl
@[simp] theorem State.setPower_tblptr (x y : Bool) : (s.setPower x y).tblptr = s.tblptr := rfl
@[simp] theorem State.setPower_tablat (x y : Bool) : (s.setPower x y).tablat = s.tablat := rfl
@[simp] theorem State.setPower_pc (x y : Bool) : (s.setPower x y).pc = s.pc := rfl
@[simp] theorem State.setPower_pclath (x y : Bool) : (s.setPower x y).pclath = s.pclath := rfl
@[simp] theorem State.setPower_pclatu (x y : Bool) : (s.setPower x y).pclatu = s.pclatu := rfl
@[simp] theorem State.setPower_stack (x y : Bool) : (s.setPower x y).stack = s.stack := rfl
@[simp] theorem State.setPower_sp (x y : Bool) : (s.setPower x y).sp = s.sp := rfl
@[simp] theorem State.setPower_stkful (x y : Bool) : (s.setPower x y).stkful = s.stkful := rfl
@[simp] theorem State.setPower_stkunf (x y : Bool) : (s.setPower x y).stkunf = s.stkunf := rfl
@[simp] theorem State.setPower_ws (x y : Bool) : (s.setPower x y).ws = s.ws := rfl
@[simp] theorem State.setPower_statuss (x y : Bool) : (s.setPower x y).statuss = s.statuss := rfl
@[simp] theorem State.setPower_bsrs (x y : Bool) : (s.setPower x y).bsrs = s.bsrs := rfl
@[simp] theorem State.setPower_gieh (x y : Bool) : (s.setPower x y).gieh = s.gieh := rfl
@[simp] theorem State.setPower_giel (x y : Bool) : (s.setPower x y).giel = s.giel := rfl
@[simp] theorem State.setPower_intcon50 (x y : Bool) : (s.setPower x y).intcon50 = s.intcon50 := rfl
@[simp] theorem State.setPower_ipen (x y : Bool) : (s.setPower x y).ipen = s.ipen := rfl
@[simp] theorem State.setPower_lwrt (x y : Bool) : (s.setPower x y).lwrt = s.lwrt := rfl
@[simp] theorem State.setPower_ri (x y : Bool) : (s.setPower x y).ri = s.ri := rfl
@[simp] theorem State.setPower_toBit (x y : Bool) : (s.setPower x y).toBit = x := rfl
@[simp] theorem State.setPower_pdBit (x y : Bool) : (s.setPower x y).pdBit = y := rfl
@[simp] theorem State.setPower_por (x y : Bool) : (s.setPower x y).por = s.por := rfl
@[simp] theorem State.setPower_bor (x y : Bool) : (s.setPower x y).bor = s.bor := rfl
@[simp] theorem State.setPower_asleep (x y : Bool) : (s.setPower x y).asleep = s.asleep := rfl
@[simp] theorem State.setPower_hold0 (x y : Bool) : (s.setPower x y).hold0 = s.hold0 := rfl
@[simp] theorem State.setPower_hold1 (x y : Bool) : (s.setPower x y).hold1 = s.hold1 := rfl
@[simp] theorem State.setPower_dm (x y : Bool) : (s.setPower x y).dm = s.dm := rfl
@[simp] theorem State.setPower_pm (x y : Bool) : (s.setPower x y).pm = s.pm := rfl
@[simp] theorem State.setPower_inputs (x y : Bool) : (s.setPower x y).inputs = s.inputs := rfl
@[simp] theorem State.setPower_heldHigh (x y : Bool) : (s.setPower x y).heldHigh = s.heldHigh := rfl
@[simp] theorem State.setPower_heldLow (x y : Bool) : (s.setPower x y).heldLow = s.heldLow := rfl
@[simp] theorem State.setPower_periphIn (x y : Bool) : (s.setPower x y).periphIn = s.periphIn := rfl
@[simp] theorem State.setPower_periphOut (x y : Bool) : (s.setPower x y).periphOut = s.periphOut := rfl
@[simp] theorem State.setPower_freeCtr (x y : Bool) : (s.setPower x y).freeCtr = s.freeCtr := rfl
@[simp] theorem State.setPower_cfg (x y : Bool) : (s.setPower x y).cfg = s.cfg := rfl
@[simp] theorem State.setPower_fsr (x y : Bool) (i : FsrIdx) : (s.setPower x y).fsr i = s.fsr i := by cases i <;> rfl

@[simp] theorem State.setAsleep_w (v : Bool) : (s.setAsleep v).w = s.w := rfl
@[simp] theorem State.setAsleep_flags (v : Bool) : (s.setAsleep v).flags = s.flags := rfl
@[simp] theorem State.setAsleep_bsr (v : Bool) : (s.setAsleep v).bsr = s.bsr := rfl
@[simp] theorem State.setAsleep_fsr0 (v : Bool) : (s.setAsleep v).fsr0 = s.fsr0 := rfl
@[simp] theorem State.setAsleep_fsr1 (v : Bool) : (s.setAsleep v).fsr1 = s.fsr1 := rfl
@[simp] theorem State.setAsleep_fsr2 (v : Bool) : (s.setAsleep v).fsr2 = s.fsr2 := rfl
@[simp] theorem State.setAsleep_prodh (v : Bool) : (s.setAsleep v).prodh = s.prodh := rfl
@[simp] theorem State.setAsleep_prodl (v : Bool) : (s.setAsleep v).prodl = s.prodl := rfl
@[simp] theorem State.setAsleep_tblptr (v : Bool) : (s.setAsleep v).tblptr = s.tblptr := rfl
@[simp] theorem State.setAsleep_tablat (v : Bool) : (s.setAsleep v).tablat = s.tablat := rfl
@[simp] theorem State.setAsleep_pc (v : Bool) : (s.setAsleep v).pc = s.pc := rfl
@[simp] theorem State.setAsleep_pclath (v : Bool) : (s.setAsleep v).pclath = s.pclath := rfl
@[simp] theorem State.setAsleep_pclatu (v : Bool) : (s.setAsleep v).pclatu = s.pclatu := rfl
@[simp] theorem State.setAsleep_stack (v : Bool) : (s.setAsleep v).stack = s.stack := rfl
@[simp] theorem State.setAsleep_sp (v : Bool) : (s.setAsleep v).sp = s.sp := rfl
@[simp] theorem State.setAsleep_stkful (v : Bool) : (s.setAsleep v).stkful = s.stkful := rfl
@[simp] theorem State.setAsleep_stkunf (v : Bool) : (s.setAsleep v).stkunf = s.stkunf := rfl
@[simp] theorem State.setAsleep_ws (v : Bool) : (s.setAsleep v).ws = s.ws := rfl
@[simp] theorem State.setAsleep_statuss (v : Bool) : (s.setAsleep v).statuss = s.statuss := rfl
@[simp] theorem State.setAsleep_bsrs (v : Bool) : (s.setAsleep v).bsrs = s.bsrs := rfl
@[simp] theorem State.setAsleep_gieh (v : Bool) : (s.setAsleep v).gieh = s.gieh := rfl
@[simp] theorem State.setAsleep_giel (v : Bool) : (s.setAsleep v).giel = s.giel := rfl
@[simp] theorem State.setAsleep_intcon50 (v : Bool) : (s.setAsleep v).intcon50 = s.intcon50 := rfl
@[simp] theorem State.setAsleep_ipen (v : Bool) : (s.setAsleep v).ipen = s.ipen := rfl
@[simp] theorem State.setAsleep_lwrt (v : Bool) : (s.setAsleep v).lwrt = s.lwrt := rfl
@[simp] theorem State.setAsleep_ri (v : Bool) : (s.setAsleep v).ri = s.ri := rfl
@[simp] theorem State.setAsleep_toBit (v : Bool) : (s.setAsleep v).toBit = s.toBit := rfl
@[simp] theorem State.setAsleep_pdBit (v : Bool) : (s.setAsleep v).pdBit = s.pdBit := rfl
@[simp] theorem State.setAsleep_por (v : Bool) : (s.setAsleep v).por = s.por := rfl
@[simp] theorem State.setAsleep_bor (v : Bool) : (s.setAsleep v).bor = s.bor := rfl
@[simp] theorem State.setAsleep_asleep (v : Bool) : (s.setAsleep v).asleep = v := rfl
@[simp] theorem State.setAsleep_hold0 (v : Bool) : (s.setAsleep v).hold0 = s.hold0 := rfl
@[simp] theorem State.setAsleep_hold1 (v : Bool) : (s.setAsleep v).hold1 = s.hold1 := rfl
@[simp] theorem State.setAsleep_dm (v : Bool) : (s.setAsleep v).dm = s.dm := rfl
@[simp] theorem State.setAsleep_pm (v : Bool) : (s.setAsleep v).pm = s.pm := rfl
@[simp] theorem State.setAsleep_inputs (v : Bool) : (s.setAsleep v).inputs = s.inputs := rfl
@[simp] theorem State.setAsleep_heldHigh (v : Bool) : (s.setAsleep v).heldHigh = s.heldHigh := rfl
@[simp] theorem State.setAsleep_heldLow (v : Bool) : (s.setAsleep v).heldLow = s.heldLow := rfl
@[simp] theorem State.setAsleep_periphIn (v : Bool) : (s.setAsleep v).periphIn = s.periphIn := rfl
@[simp] theorem State.setAsleep_periphOut (v : Bool) : (s.setAsleep v).periphOut = s.periphOut := rfl
@[simp] theorem State.setAsleep_freeCtr (v : Bool) : (s.setAsleep v).freeCtr = s.freeCtr := rfl
@[simp] theorem State.setAsleep_cfg (v : Bool) : (s.setAsleep v).cfg = s.cfg := rfl
@[simp] theorem State.setAsleep_fsr (v : Bool) (i : FsrIdx) : (s.setAsleep v).fsr i = s.fsr i := by cases i <;> rfl

@[simp] theorem State.setHeld_w (x y : Bool) : (s.setHeld x y).w = s.w := rfl
@[simp] theorem State.setHeld_flags (x y : Bool) : (s.setHeld x y).flags = s.flags := rfl
@[simp] theorem State.setHeld_bsr (x y : Bool) : (s.setHeld x y).bsr = s.bsr := rfl
@[simp] theorem State.setHeld_fsr0 (x y : Bool) : (s.setHeld x y).fsr0 = s.fsr0 := rfl
@[simp] theorem State.setHeld_fsr1 (x y : Bool) : (s.setHeld x y).fsr1 = s.fsr1 := rfl
@[simp] theorem State.setHeld_fsr2 (x y : Bool) : (s.setHeld x y).fsr2 = s.fsr2 := rfl
@[simp] theorem State.setHeld_prodh (x y : Bool) : (s.setHeld x y).prodh = s.prodh := rfl
@[simp] theorem State.setHeld_prodl (x y : Bool) : (s.setHeld x y).prodl = s.prodl := rfl
@[simp] theorem State.setHeld_tblptr (x y : Bool) : (s.setHeld x y).tblptr = s.tblptr := rfl
@[simp] theorem State.setHeld_tablat (x y : Bool) : (s.setHeld x y).tablat = s.tablat := rfl
@[simp] theorem State.setHeld_pc (x y : Bool) : (s.setHeld x y).pc = s.pc := rfl
@[simp] theorem State.setHeld_pclath (x y : Bool) : (s.setHeld x y).pclath = s.pclath := rfl
@[simp] theorem State.setHeld_pclatu (x y : Bool) : (s.setHeld x y).pclatu = s.pclatu := rfl
@[simp] theorem State.setHeld_stack (x y : Bool) : (s.setHeld x y).stack = s.stack := rfl
@[simp] theorem State.setHeld_sp (x y : Bool) : (s.setHeld x y).sp = s.sp := rfl
@[simp] theorem State.setHeld_stkful (x y : Bool) : (s.setHeld x y).stkful = s.stkful := rfl
@[simp] theorem State.setHeld_stkunf (x y : Bool) : (s.setHeld x y).stkunf = s.stkunf := rfl
@[simp] theorem State.setHeld_ws (x y : Bool) : (s.setHeld x y).ws = s.ws := rfl
@[simp] theorem State.setHeld_statuss (x y : Bool) : (s.setHeld x y).statuss = s.statuss := rfl
@[simp] theorem State.setHeld_bsrs (x y : Bool) : (s.setHeld x y).bsrs = s.bsrs := rfl
@[simp] theorem State.setHeld_gieh (x y : Bool) : (s.setHeld x y).gieh = s.gieh := rfl
@[simp] theorem State.setHeld_giel (x y : Bool) : (s.setHeld x y).giel = s.giel := rfl
@[simp] theorem State.setHeld_intcon50 (x y : Bool) : (s.setHeld x y).intcon50 = s.intcon50 := rfl
@[simp] theorem State.setHeld_ipen (x y : Bool) : (s.setHeld x y).ipen = s.ipen := rfl
@[simp] theorem State.setHeld_lwrt (x y : Bool) : (s.setHeld x y).lwrt = s.lwrt := rfl
@[simp] theorem State.setHeld_ri (x y : Bool) : (s.setHeld x y).ri = s.ri := rfl
@[simp] theorem State.setHeld_toBit (x y : Bool) : (s.setHeld x y).toBit = s.toBit := rfl
@[simp] theorem State.setHeld_pdBit (x y : Bool) : (s.setHeld x y).pdBit = s.pdBit := rfl
@[simp] theorem State.setHeld_por (x y : Bool) : (s.setHeld x y).por = s.por := rfl
@[simp] theorem State.setHeld_bor (x y : Bool) : (s.setHeld x y).bor = s.bor := rfl
@[simp] theorem State.setHeld_asleep (x y : Bool) : (s.setHeld x y).asleep = s.asleep := rfl
@[simp] theorem State.setHeld_hold0 (x y : Bool) : (s.setHeld x y).hold0 = s.hold0 := rfl
@[simp] theorem State.setHeld_hold1 (x y : Bool) : (s.setHeld x y).hold1 = s.hold1 := rfl
@[simp] theorem State.setHeld_dm (x y : Bool) : (s.setHeld x y).dm = s.dm := rfl
@[simp] theorem State.setHeld_pm (x y : Bool) : (s.setHeld x y).pm = s.pm := rfl
@[simp] theorem State.setHeld_inputs (x y : Bool) : (s.setHeld x y).inputs = s.inputs := rfl
@[simp] theorem State.setHeld_heldHigh (x y : Bool) : (s.setHeld x y).heldHigh = x := rfl
@[simp] theorem State.setHeld_heldLow (x y : Bool) : (s.setHeld x y).heldLow = y := rfl
@[simp] theorem State.setHeld_periphIn (x y : Bool) : (s.setHeld x y).periphIn = s.periphIn := rfl
@[simp] theorem State.setHeld_periphOut (x y : Bool) : (s.setHeld x y).periphOut = s.periphOut := rfl
@[simp] theorem State.setHeld_freeCtr (x y : Bool) : (s.setHeld x y).freeCtr = s.freeCtr := rfl
@[simp] theorem State.setHeld_cfg (x y : Bool) : (s.setHeld x y).cfg = s.cfg := rfl
@[simp] theorem State.setHeld_fsr (x y : Bool) (i : FsrIdx) : (s.setHeld x y).fsr i = s.fsr i := by cases i <;> rfl

@[simp] theorem State.setFreeCtr_w (v : Nat) : (s.setFreeCtr v).w = s.w := rfl
@[simp] theorem State.setFreeCtr_flags (v : Nat) : (s.setFreeCtr v).flags = s.flags := rfl
@[simp] theorem State.setFreeCtr_bsr (v : Nat) : (s.setFreeCtr v).bsr = s.bsr := rfl
@[simp] theorem State.setFreeCtr_fsr0 (v : Nat) : (s.setFreeCtr v).fsr0 = s.fsr0 := rfl
@[simp] theorem State.setFreeCtr_fsr1 (v : Nat) : (s.setFreeCtr v).fsr1 = s.fsr1 := rfl
@[simp] theorem State.setFreeCtr_fsr2 (v : Nat) : (s.setFreeCtr v).fsr2 = s.fsr2 := rfl
@[simp] theorem State.setFreeCtr_prodh (v : Nat) : (s.setFreeCtr v).prodh = s.prodh := rfl
@[simp] theorem State.setFreeCtr_prodl (v : Nat) : (s.setFreeCtr v).prodl = s.prodl := rfl
@[simp] theorem State.setFreeCtr_tblptr (v : Nat) : (s.setFreeCtr v).tblptr = s.tblptr := rfl
@[simp] theorem State.setFreeCtr_tablat (v : Nat) : (s.setFreeCtr v).tablat = s.tablat := rfl
@[simp] theorem State.setFreeCtr_pc (v : Nat) : (s.setFreeCtr v).pc = s.pc := rfl
@[simp] theorem State.setFreeCtr_pclath (v : Nat) : (s.setFreeCtr v).pclath = s.pclath := rfl
@[simp] theorem State.setFreeCtr_pclatu (v : Nat) : (s.setFreeCtr v).pclatu = s.pclatu := rfl
@[simp] theorem State.setFreeCtr_stack (v : Nat) : (s.setFreeCtr v).stack = s.stack := rfl
@[simp] theorem State.setFreeCtr_sp (v : Nat) : (s.setFreeCtr v).sp = s.sp := rfl
@[simp] theorem State.setFreeCtr_stkful (v : Nat) : (s.setFreeCtr v).stkful = s.stkful := rfl
@[simp] theorem State.setFreeCtr_stkunf (v : Nat) : (s.setFreeCtr v).stkunf = s.stkunf := rfl
@[simp] theorem State.setFreeCtr_ws (v : Nat) : (s.setFreeCtr v).ws = s.ws := rfl
@[simp] theorem State.setFreeCtr_statuss (v : Nat) : (s.setFreeCtr v).statuss = s.statuss := rfl
@[simp] theorem State.setFreeCtr_bsrs (v : Nat) : (s.setFreeCtr v).bsrs = s.bsrs := rfl
@[simp] theorem State.setFreeCtr_gieh (v : Nat) : (s.setFreeCtr v).gieh = s.gieh := rfl
@[simp] theorem State.setFreeCtr_giel (v : Nat) : (s.setFreeCtr v).giel = s.giel := rfl
@[simp] theorem State.setFreeCtr_intcon50 (v : Nat) : (s.setFreeCtr v).intcon50 = s.intcon50 := rfl
@[simp] theorem State.setFreeCtr_ipen (v : Nat) : (s.setFreeCtr v).ipen = s.ipen := rfl
@[simp] theorem State.setFreeCtr_lwrt (v : Nat) : (s.setFreeCtr v).lwrt = s.lwrt := rfl
@[simp] theorem State.setFreeCtr_ri (v : Nat) : (s.setFreeCtr v).ri = s.ri := rfl
@[simp] theorem State.setFreeCtr_toBit (v : Nat) : (s.setFreeCtr v).toBit = s.toBit := rfl
@[simp] theorem State.setFreeCtr_pdBit (v : Nat) : (s.setFreeCtr v).pdBit = s.pdBit := rfl
@[simp] theorem State.setFreeCtr_por (v : Nat) : (s.setFreeCtr v).por = s.por := rfl
@[simp] theorem State.setFreeCtr_bor (v : Nat) : (s.setFreeCtr v).bor = s.bor := rfl
@[simp] theorem State.setFreeCtr_asleep (v : Nat) : (s.setFreeCtr v).asleep = s.asleep := rfl
@[simp] theorem State.setFreeCtr_hold0 (v : Nat) : (s.setFreeCtr v).hold0 = s.hold0 := rfl
@[simp] theorem State.setFreeCtr_hold1 (v : Nat) : (s.setFreeCtr v).hold1 = s.hold1 := rfl
@[simp] theorem State.setFreeCtr_dm (v : Nat) : (s.setFreeCtr v).dm = s.dm := rfl
@[simp] theorem State.setFreeCtr_pm (v : Nat) : (s.setFreeCtr v).pm = s.pm := rfl
@[simp] theorem State.setFreeCtr_inputs (v : Nat) : (s.setFreeCtr v).inputs = s.inputs := rfl
@[simp] theorem State.setFreeCtr_heldHigh (v : Nat) : (s.setFreeCtr v).heldHigh = s.heldHigh := rfl
@[simp] theorem State.setFreeCtr_heldLow (v : Nat) : (s.setFreeCtr v).heldLow = s.heldLow := rfl
@[simp] theorem State.setFreeCtr_periphIn (v : Nat) : (s.setFreeCtr v).periphIn = s.periphIn := rfl
@[simp] theorem State.setFreeCtr_periphOut (v : Nat) : (s.setFreeCtr v).periphOut = s.periphOut := rfl
@[simp] theorem State.setFreeCtr_freeCtr (v : Nat) : (s.setFreeCtr v).freeCtr = v := rfl
@[simp] theorem State.setFreeCtr_cfg (v : Nat) : (s.setFreeCtr v).cfg = s.cfg := rfl
@[simp] theorem State.setFreeCtr_fsr (v : Nat) (i : FsrIdx) : (s.setFreeCtr v).fsr i = s.fsr i := by cases i <;> rfl

@[simp] theorem State.setFsr_w (i : FsrIdx) (v : BitVec 12) : (s.setFsr i v).w = s.w := by cases i <;> rfl
@[simp] theorem State.setFsr_flags (i : FsrIdx) (v : BitVec 12) : (s.setFsr i v).flags = s.flags := by cases i <;> rfl
@[simp] theorem State.setFsr_bsr (i : FsrIdx) (v : BitVec 12) : (s.setFsr i v).bsr = s.bsr := by cases i <;> rfl
@[simp] theorem State.setFsr_prodh (i : FsrIdx) (v : BitVec 12) : (s.setFsr i v).prodh = s.prodh := by cases i <;> rfl
@[simp] theorem State.setFsr_prodl (i : FsrIdx) (v : BitVec 12) : (s.setFsr i v).prodl = s.prodl := by cases i <;> rfl
@[simp] theorem State.setFsr_tblptr (i : FsrIdx) (v : BitVec 12) : (s.setFsr i v).tblptr = s.tblptr := by cases i <;> rfl
@[simp] theorem State.setFsr_tablat (i : FsrIdx) (v : BitVec 12) : (s.setFsr i v).tablat = s.tablat := by cases i <;> rfl
@[simp] theorem State.setFsr_pc (i : FsrIdx) (v : BitVec 12) : (s.setFsr i v).pc = s.pc := by cases i <;> rfl
@[simp] theorem State.setFsr_pclath (i : FsrIdx) (v : BitVec 12) : (s.setFsr i v).pclath = s.pclath := by cases i <;> rfl
@[simp] theorem State.setFsr_pclatu (i : FsrIdx) (v : BitVec 12) : (s.setFsr i v).pclatu = s.pclatu := by cases i <;> rfl
@[simp] theorem State.setFsr_stack (i : FsrIdx) (v : BitVec 12) : (s.setFsr i v).stack = s.stack := by cases i <;> rfl
@[simp] theorem State.setFsr_sp (i : FsrIdx) (v : BitVec 12) : (s.setFsr i v).sp = s.sp := by cases i <;> rfl
@[simp] theorem State.setFsr_stkful (i : FsrIdx) (v : BitVec 12) : (s.setFsr i v).stkful = s.stkful := by cases i <;> rfl
@[simp] theorem State.setFsr_stkunf (i : FsrIdx) (v : BitVec 12) : (s.setFsr i v).stkunf = s.stkunf := by cases i <;> rfl
@[simp] theorem State.setFsr_ws (i : FsrIdx) (v : BitVec 12) : (s.setFsr i v).ws = s.ws := by cases i <;> rfl
@[simp] theorem State.setFsr_statuss (i : FsrIdx) (v : BitVec 12) : (s.setFsr i v).statuss = s.statuss := by cases i <;> rfl
@[simp] theorem State.setFsr_bsrs (i : FsrIdx) (v : BitVec 12) : (s.setFsr i v).bsrs = s.bsrs := by cases i <;> rfl
@[simp] theorem State.setFsr_gieh (i : FsrIdx) (v : BitVec 12) : (s.setFsr i v).gieh = s.gieh := by cases i <;> rfl
@[simp] theorem State.setFsr_giel (i : FsrIdx) (v : BitVec 12) : (s.setFsr i v).giel = s.giel := by cases i <;> rfl
@[simp] theorem State.setFsr_intcon50 (i : FsrIdx) (v : BitVec 12) : (s.setFsr i v).intcon50 = s.intcon50 := by cases i <;> rfl
@[simp] theorem State.setFsr_ipen (i : FsrIdx) (v : BitVec 12) : (s.setFsr i v).ipen = s.ipen := by cases i <;> rfl
@[simp] theorem State.setFsr_lwrt (i : FsrIdx) (v : BitVec 12) : (s.setFsr i v).lwrt = s.lwrt := by cases i <;> rfl
@[simp] theorem State.setFsr_ri (i : FsrIdx) (v : BitVec 12) : (s.setFsr i v).ri = s.ri := by cases i <;> rfl
@[simp] theorem State.setFsr_toBit (i : FsrIdx) (v : BitVec 12) : (s.setFsr i v).toBit = s.toBit := by cases i <;> rfl
@[simp] theorem State.setFsr_pdBit (i : FsrIdx) (v : BitVec 12) : (s.setFsr i v).pdBit = s.pdBit := by cases i <;> rfl
@[simp] theorem State.setFsr_por (i : FsrIdx) (v : BitVec 12) : (s.setFsr i v).por = s.por := by cases i <;> rfl
@[simp] theorem State.setFsr_bor (i : FsrIdx) (v : BitVec 12) : (s.setFsr i v).bor = s.bor := by cases i <;> rfl
@[simp] theorem State.setFsr_asleep (i : FsrIdx) (v : BitVec 12) : (s.setFsr i v).asleep = s.asleep := by cases i <;> rfl
@[simp] theorem State.setFsr_hold0 (i : FsrIdx) (v : BitVec 12) : (s.setFsr i v).hold0 = s.hold0 := by cases i <;> rfl
@[simp] theorem State.setFsr_hold1 (i : FsrIdx) (v : BitVec 12) : (s.setFsr i v).hold1 = s.hold1 := by cases i <;> rfl
@[simp] theorem State.setFsr_dm (i : FsrIdx) (v : BitVec 12) : (s.setFsr i v).dm = s.dm := by cases i <;> rfl
@[simp] theorem State.setFsr_pm (i : FsrIdx) (v : BitVec 12) : (s.setFsr i v).pm = s.pm := by cases i <;> rfl
@[simp] theorem State.setFsr_inputs (i : FsrIdx) (v : BitVec 12) : (s.setFsr i v).inputs = s.inputs := by cases i <;> rfl
@[simp] theorem State.setFsr_heldHigh (i : FsrIdx) (v : BitVec 12) : (s.setFsr i v).heldHigh = s.heldHigh := by cases i <;> rfl
@[simp] theorem State.setFsr_heldLow (i : FsrIdx) (v : BitVec 12) : (s.setFsr i v).heldLow = s.heldLow := by cases i <;> rfl
@[simp] theorem State.setFsr_periphIn (i : FsrIdx) (v : BitVec 12) : (s.setFsr i v).periphIn = s.periphIn := by cases i <;> rfl
@[simp] theorem State.setFsr_periphOut (i : FsrIdx) (v : BitVec 12) : (s.setFsr i v).periphOut = s.periphOut := by cases i <;> rfl
@[simp] theorem State.setFsr_freeCtr (i : FsrIdx) (v : BitVec 12) : (s.setFsr i v).freeCtr = s.freeCtr := by cases i <;> rfl
@[simp] theorem State.setFsr_cfg (i : FsrIdx) (v : BitVec 12) : (s.setFsr i v).cfg = s.cfg := by cases i <;> rfl

theorem State.setFsr_fsr (i j : FsrIdx) (v : BitVec 12) : (s.setFsr i v).fsr j = if i = j then v else s.fsr j := by
  cases i <;> cases j <;> rfl

@[simp] theorem State.setFsr_fsr_same (i : FsrIdx) (v : BitVec 12) : (s.setFsr i v).fsr i = v := by cases i <;> rfl

@[simp] theorem State.setFsr_self (i : FsrIdx) : s.setFsr i (s.fsr i) = s := by cases i <;> rfl

@[simp] theorem State.advance_w : s.advance.w = s.w := rfl
@[simp] theorem State.advance_flags : s.advance.flags = s.flags := rfl
@[simp] theorem State.advance_bsr : s.advance.bsr = s.bsr := rfl
@[simp] theorem State.advance_fsr0 : s.advance.fsr0 = s.fsr0 := rfl
@[simp] theorem State.advance_fsr1 : s.advance.fsr1 = s.fsr1 := rfl
@[simp] theorem State.advance_fsr2 : s.advance.fsr2 = s.fsr2 := rfl
@[simp] theorem State.advance_prodh : s.advance.prodh = s.prodh := rfl
@[simp] theorem State.advance_prodl : s.advance.prodl = s.prodl := rfl
@[simp] theorem State.advance_tblptr : s.advance.tblptr = s.tblptr := rfl
@[simp] theorem State.advance_tablat : s.advance.tablat = s.tablat := rfl
@[simp] theorem State.advance_pc : s.advance.pc = s.pc + 2 := rfl
@[simp] theorem State.advance_pclath : s.advance.pclath = s.pclath := rfl
@[simp] theorem State.advance_pclatu : s.advance.pclatu = s.pclatu := rfl
@[simp] theorem State.advance_stack : s.advance.stack = s.stack := rfl
@[simp] theorem State.advance_sp : s.advance.sp = s.sp := rfl
@[simp] theorem State.advance_stkful : s.advance.stkful = s.stkful := rfl
@[simp] theorem State.advance_stkunf : s.advance.stkunf = s.stkunf := rfl
@[simp] theorem State.advance_ws : s.advance.ws = s.ws := rfl
@[simp] theorem State.advance_statuss : s.advance.statuss = s.statuss := rfl
@[simp] theorem State.advance_bsrs : s.advance.bsrs = s.bsrs := rfl
@[simp] theorem State.advance_gieh : s.advance.gieh = s.gieh := rfl
@[simp] theorem State.advance_giel : s.advance.giel = s.giel := rfl
@[simp] theorem State.advance_intcon50 : s.advance.intcon50 = s.intcon50 := rfl
@[simp] theorem State.advance_ipen : s.advance.ipen = s.ipen := rfl
@[simp] theorem State.advance_lwrt : s.advance.lwrt = s.lwrt := rfl
@[simp] theorem State.advance_ri : s.advance.ri = s.ri := rfl
@[simp] theorem State.advance_toBit : s.advance.toBit = s.toBit := rfl
@[simp] theorem State.advance_pdBit : s.advance.pdBit = s.pdBit := rfl
@[simp] theorem State.advance_por : s.advance.por = s.por := rfl
@[simp] theorem State.advance_bor : s.advance.bor = s.bor := rfl
@[simp] theorem State.advance_asleep : s.advance.asleep = s.asleep := rfl
@[simp] theorem State.advance_hold0 : s.advance.hold0 = s.hold0 := rfl
@[simp] theorem State.advance_hold1 : s.advance.hold1 = s.hold1 := rfl
@[simp] theorem State.advance_dm : s.advance.dm = s.dm := rfl
@[simp] theorem State.advance_pm : s.advance.pm = s.pm := rfl
@[simp] theorem State.advance_inputs : s.advance.inputs = s.inputs := rfl
@[simp] theorem State.advance_heldHigh : s.advance.heldHigh = s.heldHigh := rfl
@[simp] theorem State.advance_heldLow : s.advance.heldLow = s.heldLow := rfl
@[simp] theorem State.advance_periphIn : s.advance.periphIn = s.periphIn := rfl
@[simp] theorem State.advance_periphOut : s.advance.periphOut = s.periphOut := rfl
@[simp] theorem State.advance_freeCtr : s.advance.freeCtr = s.freeCtr := rfl
@[simp] theorem State.advance_cfg : s.advance.cfg = s.cfg := rfl
@[simp] theorem State.advance_fsr (i : FsrIdx) : s.advance.fsr i = s.fsr i := by cases i <;> rfl

@[simp] theorem State.setEntry_w (i : BitVec 5) (v : BitVec 21) : (s.setEntry i v).w = s.w := by unfold State.setEntry; split <;> rfl
@[simp] theorem State.setEntry_flags (i : BitVec 5) (v : BitVec 21) : (s.setEntry i v).flags = s.flags := by unfold State.setEntry; split <;> rfl
@[simp] theorem State.setEntry_bsr (i : BitVec 5) (v : BitVec 21) : (s.setEntry i v).bsr = s.bsr := by unfold State.setEntry; split <;> rfl
@[simp] theorem State.setEntry_fsr0 (i : BitVec 5) (v : BitVec 21) : (s.setEntry i v).fsr0 = s.fsr0 := by unfold State.setEntry; split <;> rfl
@[simp] theorem State.setEntry_fsr1 (i : BitVec 5) (v : BitVec 21) : (s.setEntry i v).fsr1 = s.fsr1 := by unfold State.setEntry; split <;> rfl
@[simp] theorem State.setEntry_fsr2 (i : BitVec 5) (v : BitVec 21) : (s.setEntry i v).fsr2 = s.fsr2 := by unfold State.setEntry; split <;> rfl
@[simp] theorem State.setEntry_prodh (i : BitVec 5) (v : BitVec 21) : (s.setEntry i v).prodh = s.prodh := by unfold State.setEntry; split <;> rfl
@[simp] theorem State.setEntry_prodl (i : BitVec 5) (v : BitVec 21) : (s.setEntry i v).prodl = s.prodl := by unfold State.setEntry; split <;> rfl
@[simp] theorem State.setEntry_tblptr (i : BitVec 5) (v : BitVec 21) : (s.setEntry i v).tblptr = s.tblptr := by unfold State.setEntry; split <;> rfl
@[simp] theorem State.setEntry_tablat (i : BitVec 5) (v : BitVec 21) : (s.setEntry i v).tablat = s.tablat := by unfold State.setEntry; split <;> rfl
@[simp] theorem State.setEntry_pc (i : BitVec 5) (v : BitVec 21) : (s.setEntry i v).pc = s.pc := by unfold State.setEntry; split <;> rfl
@[simp] theorem State.setEntry_pclath (i : BitVec 5) (v : BitVec 21) : (s.setEntry i v).pclath = s.pclath := by unfold State.setEntry; split <;> rfl
@[simp] theorem State.setEntry_pclatu (i : BitVec 5) (v : BitVec 21) : (s.setEntry i v).pclatu = s.pclatu := by unfold State.setEntry; split <;> rfl
@[simp] theorem State.setEntry_sp (i : BitVec 5) (v : BitVec 21) : (s.setEntry i v).sp = s.sp := by unfold State.setEntry; split <;> rfl
@[simp] theorem State.setEntry_stkful (i : BitVec 5) (v : BitVec 21) : (s.setEntry i v).stkful = s.stkful := by unfold State.setEntry; split <;> rfl
@[simp] theorem State.setEntry_stkunf (i : BitVec 5) (v : BitVec 21) : (s.setEntry i v).stkunf = s.stkunf := by unfold State.setEntry; split <;> rfl
@[simp] theorem State.setEntry_ws (i : BitVec 5) (v : BitVec 21) : (s.setEntry i v).ws = s.ws := by unfold State.setEntry; split <;> rfl
@[simp] theorem State.setEntry_statuss (i : BitVec 5) (v : BitVec 21) : (s.setEntry i v).statuss = s.statuss := by unfold State.setEntry; split <;> rfl
@[simp] theorem State.setEntry_bsrs (i : BitVec 5) (v : BitVec 21) : (s.setEntry i v).bsrs = s.bsrs := by unfold State.setEntry; split <;> rfl
@[simp] theorem State.setEntry_gieh (i : BitVec 5) (v : BitVec 21) : (s.setEntry i v).gieh = s.gieh := by unfold State.setEntry; split <;> rfl
@[simp] theorem State.setEntry_giel (i : BitVec 5) (v : BitVec 21) : (s.setEntry i v).giel = s.giel := by unfold State.setEntry; split <;> rfl
@[simp] theorem State.setEntry_intcon50 (i : BitVec 5) (v : BitVec 21) : (s.setEntry i v).intcon50 = s.intcon50 := by unfold State.setEntry; split <;> rfl
@[simp] theorem State.setEntry_ipen (i : BitVec 5) (v : BitVec 21) : (s.setEntry i v).ipen = s.ipen := by unfold State.setEntry; split <;> rfl
@[simp] theorem State.setEntry_lwrt (i : BitVec 5) (v : BitVec 21) : (s.setEntry i v).lwrt = s.lwrt := by unfold State.setEntry; split <;> rfl
@[simp] theorem State.setEntry_ri (i : BitVec 5) (v : BitVec 21) : (s.setEntry i v).ri = s.ri := by unfold State.setEntry; split <;> rfl
@[simp] theorem State.setEntry_toBit (i : BitVec 5) (v : BitVec 21) : (s.setEntry i v).toBit = s.toBit := by unfold State.setEntry; split <;> rfl
@[simp] theorem State.setEntry_pdBit (i : BitVec 5) (v : BitVec 21) : (s.setEntry i v).pdBit = s.pdBit := by unfold State.setEntry; split <;> rfl
@[simp] theorem State.setEntry_por (i : BitVec 5) (v : BitVec 21) : (s.setEntry i v).por = s.por := by unfold State.setEntry; split <;> rfl
@[simp] theorem State.setEntry_bor (i : BitVec 5) (v : BitVec 21) : (s.setEntry i v).bor = s.bor := by unfold State.setEntry; split <;> rfl
@[simp] theorem State.setEntry_asleep (i : BitVec 5) (v : BitVec 21) : (s.setEntry i v).asleep = s.asleep := by unfold State.setEntry; split <;> rfl
@[simp] theorem State.setEntry_hold0 (i : BitVec 5) (v : BitVec 21) : (s.setEntry i v).hold0 = s.hold0 := by unfold State.setEntry; split <;> rfl
@[simp] theorem State.setEntry_hold1 (i : BitVec 5) (v : BitVec 21) : (s.setEntry i v).hold1 = s.hold1 := by unfold State.setEntry; split <;> rfl
@[simp] theorem State.setEntry_dm (i : BitVec 5) (v : BitVec 21) : (s.setEntry i v).dm = s.dm := by unfold State.setEntry; split <;> rfl
@[simp] theorem State.setEntry_pm (i : BitVec 5) (v : BitVec 21) : (s.setEntry i v).pm = s.pm := by unfold State.setEntry; split <;> rfl
@[simp] theorem State.setEntry_inputs (i : BitVec 5) (v : BitVec 21) : (s.setEntry i v).inputs = s.inputs := by unfold State.setEntry; split <;> rfl
@[simp] theorem State.setEntry_heldHigh (i : BitVec 5) (v : BitVec 21) : (s.setEntry i v).heldHigh = s.heldHigh := by unfold State.setEntry; split <;> rfl
@[simp] theorem State.setEntry_heldLow (i : BitVec 5) (v : BitVec 21) : (s.setEntry i v).heldLow = s.heldLow := by unfold State.setEntry; split <;> rfl
@[simp] theorem State.setEntry_periphIn (i : BitVec 5) (v : BitVec 21) : (s.setEntry i v).periphIn = s.periphIn := by unfold State.setEntry; split <;> rfl
@[simp] theorem State.setEntry_periphOut (i : BitVec 5) (v : BitVec 21) : (s.setEntry i v).periphOut = s.periphOut := by unfold State.setEntry; split <;> rfl
@[simp] theorem State.setEntry_freeCtr (i : BitVec 5) (v : BitVec 21) : (s.setEntry i v).freeCtr = s.freeCtr := by unfold State.setEntry; split <;> rfl
@[simp] theorem State.setEntry_cfg (i : BitVec 5) (v : BitVec 21) : (s.setEntry i v).cfg = s.cfg := by unfold State.setEntry; split <;> rfl
@[simp] theorem State.setEntry_fsr (i : BitVec 5) (v : BitVec 21) (j : FsrIdx) : (s.setEntry i v).fsr j = s.fsr j := by unfold State.setEntry; split <;> cases j <;> rfl
@[simp] theorem State.setW_entry (v : Byte) (i : BitVec 5) : (s.setW v).entry i = s.entry i := rfl
@[simp] theorem State.setFlags_entry (v : Flags) (i : BitVec 5) : (s.setFlags v).entry i = s.entry i := rfl
@[simp] theorem State.setPc_entry (v : ProgAddr) (i : BitVec 5) : (s.setPc v).entry i = s.entry i := rfl
@[simp] theorem State.setBsr_entry (v : BitVec 4) (i : BitVec 5) : (s.setBsr v).entry i = s.entry i := rfl
@[simp] theorem State.setProd_entry (v : BitVec 16) (i : BitVec 5) : (s.setProd v).entry i = s.entry i := rfl
@[simp] theorem State.setTblptr_entry (v : BitVec 22) (i : BitVec 5) : (s.setTblptr v).entry i = s.entry i := rfl
@[simp] theorem State.setTablat_entry (v : Byte) (i : BitVec 5) : (s.setTablat v).entry i = s.entry i := rfl
@[simp] theorem State.setLatches_entry (u : BitVec 5) (h : Byte) (i : BitVec 5) : (s.setLatches u h).entry i = s.entry i := rfl
@[simp] theorem State.setDm_entry (v : Memory) (i : BitVec 5) : (s.setDm v).entry i = s.entry i := rfl
@[simp] theorem State.setSp_entry (v : BitVec 5) (i : BitVec 5) : (s.setSp v).entry i = s.entry i := rfl
@[simp] theorem State.setStkful_entry (v : Bool) (i : BitVec 5) : (s.setStkful v).entry i = s.entry i := rfl
@[simp] theorem State.setStkunf_entry (v : Bool) (i : BitVec 5) : (s.setStkunf v).entry i = s.entry i := rfl
@[simp] theorem State.setGieh_entry (v : Bool) (i : BitVec 5) : (s.setGieh v).entry i = s.entry i := rfl
@[simp] theorem State.setGiel_entry (v : Bool) (i : BitVec 5) : (s.setGiel v).entry i = s.entry i := rfl
@[simp] theorem State.setPower_entry (x y : Bool) (i : BitVec 5) : (s.setPower x y).entry i = s.entry i := rfl
@[simp] theorem State.setAsleep_entry (v : Bool) (i : BitVec 5) : (s.setAsleep v).entry i = s.entry i := rfl
@[simp] theorem State.setHeld_entry (x y : Bool) (i : BitVec 5) : (s.setHeld x y).entry i = s.entry i := rfl
@[simp] theorem State.setFreeCtr_entry (v : Nat) (i : BitVec 5) : (s.setFreeCtr v).entry i = s.entry i := rfl

end Sys2Proof.Machine
end

