-- ==== Sys2Proof/Laws/Ops.lean ====
section
/-! SUPPORT. For each shared operation, once, everything it can do: an equation in the terms of `Safety.lean`, or an
inversion (if it answers next, then ...). -/

namespace Sys2Proof.Machine

/-! `andThen` -/

@[simp] theorem andThen_of_next {α β : Type} (a : α) (k : α → Res β) : andThen (.next a) k = k a := rfl

@[simp] theorem andThen_of_fault {α β : Type} (e : Fault) (k : α → Res β) : andThen (.fault e) k = .fault e := rfl

@[simp] theorem andThen_of_refused {α β : Type} (e : Refusal) (k : α → Res β) :
    andThen (.refused e) k = .refused e := rfl

theorem andThen_eq_next {α β : Type} {x : Res α} {k : α → Res β} {b : β} :
    andThen x k = .next b ↔ ∃ a, x = .next a ∧ k a = .next b := by
  cases x <;> simp

/-! Addresses -/

theorem sfrAt_eq_some {cfg : Config} {t : DataAddr} {r : Sfr} : sfrAt cfg t = some r ↔ regAt cfg t = some (.core r) := by
  unfold sfrAt
  split <;> simp_all

theorem virtAt_eq_some {cfg : Config} {t : DataAddr} {q : Virt} :
    virtAt cfg t = some q ↔ regAt cfg t = some (.virt q) := by
  unfold virtAt
  split <;> simp_all

theorem placeOf_gpr {cfg : Config} {t : DataAddr} : placeOf cfg t = .gpr ↔ gprOk cfg t = true := by
  unfold placeOf
  cases gprOk cfg t <;> simp
  split <;> simp

theorem placeOf_of_reg {cfg : Config} {t : DataAddr} (h : gprOk cfg t = false) :
    placeOf cfg t = match regAt cfg t with
      | some (.virt _) => .virt
      | some (.core r) => .core r
      | none => .outside := by
  unfold placeOf
  rw [h]
  rfl

theorem placeOf_core {cfg : Config} {t : DataAddr} {r : Sfr} :
    placeOf cfg t = .core r ↔ gprOk cfg t = false ∧ regAt cfg t = some (.core r) := by
  unfold placeOf
  cases gprOk cfg t <;> simp
  split <;> simp_all

theorem placeOf_outside {cfg : Config} {t : DataAddr} : placeOf cfg t = .outside ↔ unmapped cfg t = true := by
  unfold placeOf unmapped
  cases gprOk cfg t <;> simp
  split <;> simp_all

/-- With R60's table an address names what the default configuration says it names. -/
theorem regAt_of_table {cfg : Config} (h : cfg.sfrMap = r60Map) (t : DataAddr) : regAt cfg t = regAt Config.default t := by
  unfold regAt
  rw [h]
  rfl

/-- With the spec's map each row of R60's table names its register. -/
theorem SpecMap.placeOf {cfg : Config} (h : SpecMap cfg) {t : DataAddr} {n : SfrName}
    (ht : regAt Config.default t = some n) :
    placeOf cfg t = match n with
      | .virt _ => .virt
      | .core r => .core r := by
  have hr : regAt cfg t = some n := by rw [regAt_of_table h.table, ht]
  have hg : gprOk cfg t = false := by
    cases hg : gprOk cfg t with
    | false => rfl
    | true => simp [h.apart t hg] at hr
  rw [placeOf_of_reg hg, hr]
  cases n <;> rfl

/-! Resolve, read, operands -/

theorem resolve_eq (ea : DataAddr) (s : State) :
    resolve ea s = if resolvable ea s then .next ⟨targetOf ea s, afterResolve ea s⟩
      else .refused (.indirectTargetUndefined ea (targetOf ea s)) := by
  unfold resolve resolvable targetOf afterResolve
  cases virtAt s.cfg ea with
  | none => rfl
  | some q =>
    dsimp only
    split <;> rename_i h <;> simp [h]

/-- Why a read or write of a resolved address is turned away. -/
def accessRefusal (cfg : Config) (t : DataAddr) : Refusal :=
  match placeOf cfg t with
  | .core _ => .pclAccessRefused t
  | .gpr | .virt | .outside => .dataAddressNotModelled t

theorem memRead_eq (t : DataAddr) (wb : Bool) (s : State) :
    memRead t wb s = if readable s.cfg t then .next ⟨valueAt t s, afterRead t wb s⟩
      else .refused (accessRefusal s.cfg t) := by
  unfold memRead readable valueAt afterRead accessRefusal
  cases hp : placeOf s.cfg t with
  | gpr => simp
  | virt => simp
  | outside => cases s.cfg.periph <;> simp
  | core r => cases r <;> first | rfl | (cases s.cfg.pclAccess <;> cases wb <;> rfl)

theorem operandAt_eq_next {ea : DataAddr} {wb : Bool} {s : State} {o : Operand} :
    operandAt ea wb s = .next o ↔ resolvable ea s = true ∧ readable s.cfg (targetOf ea s) = true ∧
      o = ⟨targetOf ea s, valueAt (targetOf ea s) (afterResolve ea s),
        afterRead (targetOf ea s) wb (afterResolve ea s)⟩ := by
  have hcfg : (afterResolve ea s).cfg = s.cfg := by
    unfold afterResolve
    split <;> simp
  unfold operandAt
  rw [resolve_eq]
  cases hr : resolvable ea s with
  | false => simp
  | true =>
    simp only [if_true, andThen_of_next, true_and]
    rw [memRead_eq, hcfg]
    cases hd : readable s.cfg (targetOf ea s) with
    | false => simp
    | true => simp [eq_comm]

theorem readF_eq_next {f : Byte} {a : RamSel} {wb : Bool} {s : State} {o : Operand} :
    readF f a wb s = .next o ↔ canRead f a s = true ∧ o = ⟨fTarget f a s, fValue f a s, fState f a wb s⟩ := by
  unfold readF canRead fTarget fValue fState
  rw [operandAt_eq_next, Bool.and_eq_true, and_assoc]
  rfl

theorem readF_of_canRead {f : Byte} {a : RamSel} (wb : Bool) {s : State} (h : canRead f a s = true) :
    readF f a wb s = .next ⟨fTarget f a s, fValue f a s, fState f a wb s⟩ :=
  readF_eq_next.2 ⟨h, rfl⟩

/-! What `Resolve` and a read leave alone -/

/-- `s'` differs from `s` at most in the FSRs and the two PC latches. -/
structure ReadFrame (s s' : State) : Prop where
  eq : s' = { s with fsr0 := s'.fsr0, fsr1 := s'.fsr1, fsr2 := s'.fsr2, pclath := s'.pclath, pclatu := s'.pclatu }

theorem ReadFrame.refl (s : State) : ReadFrame s s := ⟨rfl⟩

theorem ReadFrame.trans {s s' s'' : State} (h : ReadFrame s s') (h' : ReadFrame s' s'') : ReadFrame s s'' := by
  constructor
  have h1 := h.eq
  have h2 := h'.eq
  rw [h1] at h2
  exact h2

theorem afterResolve_frame (ea : DataAddr) (s : State) : ReadFrame s (afterResolve ea s) := by
  unfold afterResolve
  split
  · exact .refl s
  · rename_i q _
    cases q.idx <;> exact ⟨rfl⟩

theorem afterRead_frame (t : DataAddr) (wb : Bool) (s : State) : ReadFrame s (afterRead t wb s) := by
  unfold afterRead
  split
  · exact ⟨rfl⟩
  · exact .refl s

theorem fState_frame (f : Byte) (a : RamSel) (wb : Bool) (s : State) : ReadFrame s (fState f a wb s) :=
  (afterResolve_frame _ s).trans (afterRead_frame _ wb _)

/-! Write -/

/-- The state after a write that is not turned away (20_memory.md R105). -/
def afterWrite (t : DataAddr) (v : Byte) (masked : Bool) (s : State) : State :=
  match placeOf s.cfg t with
  | .gpr => s.setDm (Memory.write .data s.dm t.toNat v)
  | .virt => s
  | .core r => sfrWrite r v masked s
  | .outside => { s with periphOut := Memory.write .periph s.periphOut t.toNat v }

theorem memWrite_eq_next {t : DataAddr} {v : Byte} {masked : Bool} {s s' : State} :
    memWrite t v masked s = .next s' ↔ writable s t = true ∧ s' = afterWrite t v masked s := by
  unfold memWrite writable readable afterWrite
  cases hp : placeOf s.cfg t with
  | gpr => simp [eq_comm (a := s')]
  | virt => simp [eq_comm (a := s')]
  | outside => cases s.cfg.periph <;> simp [eq_comm (a := s')]
  | core r =>
    dsimp only
    by_cases hr : r = .pcl ∧ s.cfg.pclAccess = .refuse
    · simp [hr.1, hr.2]
    · have h1 : (r != Sfr.pcl || s.cfg.pclAccess != PclPolicy.refuse) = true := by
        by_cases hr1 : r = .pcl <;> by_cases hq : s.cfg.pclAccess = .refuse <;> simp_all
      rw [if_neg hr, h1]
      cases h2 : isTos r && s.sp == 0 with
      | true => simp
      | false => simp [eq_comm (a := s')]

theorem memWrite_of_writable {t : DataAddr} (v : Byte) (masked : Bool) {s : State} (h : writable s t = true) :
    memWrite t v masked s = .next (afterWrite t v masked s) := memWrite_eq_next.2 ⟨h, rfl⟩

/-! The shapes -/

theorem fState_cfg (f : Byte) (a : RamSel) (wb : Bool) (s : State) : (fState f a wb s).cfg = s.cfg := by
  rw [(fState_frame f a wb s).eq]

theorem fState_sp (f : Byte) (a : RamSel) (wb : Bool) (s : State) : (fState f a wb s).sp = s.sp := by
  rw [(fState_frame f a wb s).eq]

theorem fState_pc (f : Byte) (a : RamSel) (wb : Bool) (s : State) : (fState f a wb s).pc = s.pc := by
  rw [(fState_frame f a wb s).eq]

theorem byteD_next_iff_writeDest {f : Byte} {d : Dest} {a : RamSel} {masked : Bool} {s s' : State} (r : Byte)
    (fl : Flags) :
    writeDest d (fTarget f a s) r masked ((fState f a (d == .f) s).setFlags fl).advance = .next s' ↔
      ByteOutcome f d a masked s r fl s' := by
  unfold ByteOutcome
  cases d with
  | w =>
    rw [← fState_pc f a false s]
    exact ⟨fun h => (Host.Outcome.next.inj h).symm, fun h => congrArg Host.Outcome.next h.symm⟩
  | f =>
    rw [← fState_pc f a true s]
    exact Iff.rfl

/-- `byteD` answers next exactly when the operand can be used, and then as 40_byte_oriented.md R200 says. -/
theorem byteD_eq_next {f : Byte} {d : Dest} {a : RamSel} {masked : Bool} {fn : ByteFn} {s s' : State} :
    byteD f d a masked fn s = .next s' ↔ canRead f a s = true ∧
      ByteOutcome f d a masked s (fn (fValue f a s) s.w s.flags).1 (fn (fValue f a s) s.w s.flags).2 s' := by
  unfold byteD
  rw [andThen_eq_next, ← byteD_next_iff_writeDest]
  constructor
  · rintro ⟨o, ho, h⟩
    obtain ⟨hc, rfl⟩ := readF_eq_next.1 ho
    exact ⟨hc, h⟩
  · rintro ⟨hc, h⟩
    exact ⟨_, readF_of_canRead _ hc, h⟩

theorem writable_congr {s s' : State} (t : DataAddr) (hc : s'.cfg = s.cfg) (hs : s'.sp = s.sp) :
    writable s' t = writable s t := by
  unfold writable
  rw [hc, hs]

theorem canRead_of_canUse {f : Byte} {d : Dest} {a : RamSel} {s : State} (h : canUse f d a s = true) :
    canRead f a s = true := (Bool.and_eq_true _ _ ▸ h).1

/-- Where the operand can be used there is an outcome, whatever the result and the flags are. -/
theorem ByteOutcome_exists {f : Byte} {d : Dest} {a : RamSel} {masked : Bool} {s : State} (r : Byte) (fl : Flags)
    (h : canUse f d a s = true) : ∃ s', ByteOutcome f d a masked s r fl s' := by
  unfold canUse canWrite at h
  rw [Bool.and_eq_true] at h
  cases d with
  | w => exact ⟨_, rfl⟩
  | f =>
    have hw : writable s (fTarget f a s) = true := by simpa using (Bool.and_eq_true _ _ ▸ h.2 : _ ∧ _).2
    refine ⟨_, memWrite_of_writable _ _ ?_⟩
    rw [writable_congr (s := s) _ (by simp [fState_cfg]) (by simp [fState_sp])]
    exact hw

/-- `byteD` completes where the operand can be used. -/
theorem byteD_of_canUse {f : Byte} {d : Dest} {a : RamSel} {masked : Bool} {fn : ByteFn} {s : State}
    (h : canUse f d a s = true) :
    ∃ s', byteD f d a masked fn s = .next s' ∧
      ByteOutcome f d a masked s (fn (fValue f a s) s.w s.flags).1 (fn (fValue f a s) s.w s.flags).2 s' := by
  obtain ⟨s', hs'⟩ := ByteOutcome_exists (masked := masked) (fn (fValue f a s) s.w s.flags).1
    (fn (fValue f a s) s.w s.flags).2 h
  exact ⟨s', byteD_eq_next.2 ⟨canRead_of_canUse h, hs'⟩, hs'⟩

theorem fetchWord_eq (addr : ProgAddr) (s : State) :
    fetchWord addr s = if fetchable s addr then .next (wordAt s addr)
      else .refused (.fetchOutsideProgramMemory addr) := rfl

theorem skipPc_eq_next {s : State} {p : ProgAddr} :
    skipPc s = .next p ↔ skippable s = true ∧ p = skipTarget s := by
  unfold skipPc skippable skipTarget
  rw [fetchWord_eq]
  cases fetchable s (s.pc + 2) with
  | false => simp
  | true =>
    simp only [if_true, andThen_of_next, Bool.true_and]
    cases isAssigned (wordAt s (s.pc + 2)) with
    | false => simp
    | true => simp [eq_comm (a := p)]

/-- `testSkip` answers next exactly when the operand can be read and, if it skips, the skip can be taken. -/
theorem testSkip_eq_next {f : Byte} {a : RamSel} {cond : Byte → Bool} {s s' : State} :
    testSkip f a cond s = .next s' ↔ canRead f a s = true ∧
      (cond (fValue f a s) = true → skippable s = true) ∧
      s' = (fState f a false s).setPc (if cond (fValue f a s) then skipTarget s else s.pc + 2) := by
  unfold testSkip
  rw [andThen_eq_next]
  constructor
  · rintro ⟨o, ho, h⟩
    obtain ⟨hc, rfl⟩ := readF_eq_next.1 ho
    refine ⟨hc, ?_⟩
    dsimp only at h
    split at h
    · rename_i hcond
      obtain ⟨p, hp, h⟩ := andThen_eq_next.1 h
      obtain ⟨hs, rfl⟩ := skipPc_eq_next.1 hp
      simp only [Host.Outcome.next.injEq] at h
      simp [hcond, hs, ← h]
    · rename_i hcond
      simp only [Host.Outcome.next.injEq] at h
      simp [hcond, ← h, State.advance, fState_pc]
  · rintro ⟨hc, hs, rfl⟩
    refine ⟨_, readF_of_canRead _ hc, ?_⟩
    dsimp only
    split
    · rename_i hcond
      rw [skipPc_eq_next.2 ⟨hs hcond, rfl⟩]
      rfl
    · simp [State.advance, fState_pc]

/-! Push and pop -/

theorem pushThen_of_lt {v : BitVec 21} {s : State} (k : State → Res State)
    (h : s.sp.toNat + 1 < s.cfg.stackDepth.val) :
    pushThen v s k = k ((s.setSp (s.sp + 1)).setEntry (s.sp + 1) v) := by
  unfold pushThen
  rw [if_pos h]

theorem popThen_of_ne {s : State} (k : ProgAddr → State → Res State) (h : s.sp ≠ 0) :
    popThen s k = k s.popValue (s.setSp (s.sp - 1)) := by
  unfold popThen
  rw [if_neg h]

/-- Everything a push can do when it answers next. -/
theorem pushThen_next {v : BitVec 21} {s s' : State} {k : State → Res State} (h : pushThen v s k = .next s') :
    (s.sp.toNat + 1 < s.cfg.stackDepth.val ∧ k ((s.setSp (s.sp + 1)).setEntry (s.sp + 1) v) = .next s') ∨
    (fills s = true ∧ s.cfg.stvren = false ∧
      k (((s.setSp (s.sp + 1)).setEntry (s.sp + 1) v).setStkful true) = .next s') ∨
    (fills s = true ∧ s.cfg.stvren = true ∧ s.cfg.edges = .hardware ∧
      s' = stackFullReset (((s.setSp (s.sp + 1)).setEntry (s.sp + 1) v).setStkful true)) ∨
    (full s = true ∧ s.cfg.stvren = false ∧ s.cfg.edges = .hardware ∧ k (pushOnFull v s) = .next s') ∨
    (full s = true ∧ s.cfg.stvren = true ∧ s.cfg.edges = .hardware ∧ s' = stackFullReset (pushOnFull v s)) := by
  unfold pushThen at h
  split at h
  · rename_i hlt
    exact .inl ⟨hlt, h⟩
  · rename_i hlt
    split at h
    · rename_i heq
      have hf : fills s = true := by simpa [fills] using heq
      cases hv : s.cfg.stvren <;> simp only [hv, if_true] at h
      · exact .inr (.inl ⟨hf, rfl, by simpa using h⟩)
      · cases he : s.cfg.edges <;> simp only [he] at h
        · cases h
        · exact .inr (.inr (.inl ⟨hf, rfl, rfl, by simpa using h.symm⟩))
    · rename_i heq
      have hf : full s = true := by simp [full]; omega
      cases he : s.cfg.edges <;> simp only [he] at h
      · cases h
      · cases hv : s.cfg.stvren <;> simp only [hv, if_true] at h
        · exact .inr (.inr (.inr (.inl ⟨hf, rfl, rfl, by simpa using h⟩)))
        · exact .inr (.inr (.inr (.inr ⟨hf, rfl, rfl, by simpa using h.symm⟩)))

/-- Everything a pop can do when it answers next. -/
theorem popThen_next {s s' : State} {k : ProgAddr → State → Res State} (h : popThen s k = .next s') :
    (s.sp ≠ 0 ∧ k s.popValue (s.setSp (s.sp - 1)) = .next s') ∨
    (s.sp = 0 ∧ s.cfg.stvren = false ∧ s.cfg.edges = .hardware ∧ k 0 (s.setStkunf true) = .next s') ∨
    (s.sp = 0 ∧ s.cfg.stvren = true ∧ s.cfg.edges = .hardware ∧ s' = stackUnderflowReset s) := by
  unfold popThen at h
  split at h
  · rename_i h0
    cases he : s.cfg.edges <;> simp only [he] at h
    · cases h
    · cases hv : s.cfg.stvren <;> simp only [hv, if_true] at h
      · exact .inr (.inl ⟨h0, rfl, rfl, by simpa using h⟩)
      · exact .inr (.inr ⟨h0, rfl, rfl, by simpa using h.symm⟩)
  · rename_i h0
    exact .inl ⟨h0, h⟩

theorem State.entry_setEntry (s : State) (i j : BitVec 5) (v : BitVec 21) (hi : i ≠ 0) :
    (s.setEntry i v).entry j = if j = i then v else s.entry j := by
  unfold State.setEntry State.entry
  have hi' : i.toNat ≠ 0 := fun e => hi (BitVec.eq_of_toNat_eq e)
  have := i.isLt
  have := j.isLt
  rw [if_neg hi]
  by_cases hj : j = 0
  · subst hj
    simp [show ¬(0#5 = i) from fun e => hi e.symm]
  · have hj' : j.toNat ≠ 0 := fun e => hj (BitVec.eq_of_toNat_eq e)
    simp only [hj, if_false, State.setStack_stack, Vector.getElem?_setIfInBounds]
    by_cases hij : j = i
    · subst hij
      simp [show j.toNat - 1 < 31 by omega]
    · have : i.toNat - 1 ≠ j.toNat - 1 := fun e => hij (BitVec.eq_of_toNat_eq (by omega))
      simp [this, hij]

/-! The boundary -/

/-- What a boundary without an event leaves is the state `atBoundary` describes. -/
theorem atBoundary_eq (s : State) : (takeInput s).setHeld false false = atBoundary s := by
  unfold takeInput atBoundary
  cases hi : s.inputs <;> simp only [← hi] <;> rfl

/-- What a boundary changes before anything runs: the inputs, what peripherals read as, the latched requests. -/
theorem atBoundary_frame (s : State) : atBoundary s = { s with
    inputs := s.inputs.tail, periphIn := (atBoundary s).periphIn, heldHigh := false, heldLow := false } := by
  unfold atBoundary
  split <;> simp_all

theorem requested_eq (s : State) :
    requested s = irqLevel (pendingHigh (currentInput s) s) (pendingLow (currentInput s) s) s := rfl

/-- Taking the input changes nothing that recognising a request looks at. -/
theorem irqLevel_takeInput (h l : Bool) (s : State) : irqLevel h l (takeInput s) = irqLevel h l s := by
  unfold takeInput
  split <;> rfl

/-- A fetch looks at the pc, program memory and the configuration only. -/
theorem fetchInstr_congr {s s' : State} (hpc : s'.pc = s.pc) (hpm : s'.pm = s.pm) (hcfg : s'.cfg = s.cfg) :
    fetchInstr s' = fetchInstr s := by
  have hb : ∀ a, s'.pmByte a = s.pmByte a := fun a => by simp only [State.pmByte, hpm, hcfg]
  have hf : ∀ a, fetchWord a s' = fetchWord a s := fun a => by simp only [fetchWord, hb, hcfg]
  simp only [fetchInstr, hf, hpc, hcfg, unassignedWord]

end Sys2Proof.Machine
end

