-- ==== Sys2Proof/Laws/Frame.lean ====
section
/-! SUPPORT. What each write and each shape leaves unchanged. -/

namespace Sys2Proof.Machine

theorem WriteFrame.refl (t : DataAddr) (s : State) : WriteFrame t s s := by
  constructor <;> intros <;> first | rfl | exact ⟨rfl, rfl⟩ | exact ⟨rfl, rfl, rfl⟩ | skip
  · exact ⟨rfl, rfl, rfl, rfl, rfl⟩
  · exact ⟨rfl, rfl, rfl, rfl, rfl, rfl, rfl, rfl⟩

/-- A stack entry is all that `setEntry` changes. -/
theorem State.setEntry_eq (s : State) (i : BitVec 5) (v : BitVec 21) :
    s.setEntry i v = s.setStack (s.setEntry i v).stack := by
  unfold State.setEntry; split <;> rfl

theorem tos_frame (s : State) (t : DataAddr) (v : BitVec 21) (h0 : s.sp ≠ 0)
    (ht : placeOf s.cfg t = .core .tosu ∨ placeOf s.cfg t = .core .tosh ∨ placeOf s.cfg t = .core .tosl) :
    WriteFrame t s (s.setEntry s.sp v) := by
  have he : ∀ i, i ≠ s.sp → (s.setEntry s.sp v).entry i = s.entry i := fun i hi => by
    rw [State.entry_setEntry s _ _ _ h0, if_neg hi]
  rw [State.setEntry_eq] at he ⊢
  refine { WriteFrame.refl t s with stack := fun h1 h2 h3 => ?_, entries := he }
  rcases ht with h | h | h
  · exact absurd h h1
  · exact absurd h h2
  · exact absurd h h3

theorem sfrWrite_frame {t : DataAddr} {r : Sfr} (v : Byte) (masked : Bool) {s : State} (hp : placeOf s.cfg t = .core r)
    (h0 : isTos r = true → s.sp ≠ 0) : WriteFrame t s (sfrWrite r v masked s) := by
  cases r with
  | tosu => exact tos_frame s _ _ (h0 rfl) (.inl hp)
  | tosh => exact tos_frame s _ _ (h0 rfl) (.inr (.inl hp))
  | tosl => exact tos_frame s _ _ (h0 rfl) (.inr (.inr hp))
  | stkptr => exact { WriteFrame.refl _ s with stkptr := fun h => absurd hp h }
  | pclatu => exact { WriteFrame.refl _ s with pclatu := fun h => absurd hp h }
  | pclath => exact { WriteFrame.refl _ s with pclath := fun h => absurd hp h }
  | pcl => exact { WriteFrame.refl _ s with pc := fun h => absurd hp h }
  | tblptru => exact { WriteFrame.refl _ s with tblptr := fun h _ _ => absurd hp h }
  | tblptrh => exact { WriteFrame.refl _ s with tblptr := fun _ h _ => absurd hp h }
  | tblptrl => exact { WriteFrame.refl _ s with tblptr := fun _ _ h => absurd hp h }
  | tablat => exact { WriteFrame.refl _ s with tablat := fun h => absurd hp h }
  | prodh => exact { WriteFrame.refl _ s with prodh := fun h => absurd hp h }
  | prodl => exact { WriteFrame.refl _ s with prodl := fun h => absurd hp h }
  | intcon => exact { WriteFrame.refl _ s with intcon := fun h => absurd hp h }
  | fsrh i =>
    cases i <;> exact { WriteFrame.refl _ s with
      fsr := fun j h1 h2 => by cases j <;> first | rfl | exact absurd hp h2 }
  | fsrl i =>
    cases i <;> exact { WriteFrame.refl _ s with
      fsr := fun j h1 h2 => by cases j <;> first | rfl | exact absurd hp h1 }
  | wreg => exact { WriteFrame.refl _ s with w := fun h => absurd hp h }
  | bsr => exact { WriteFrame.refl _ s with bsr := fun h => absurd hp h }
  | status =>
    cases masked
    · exact { WriteFrame.refl _ s with flags := fun h => absurd hp h }
    · exact WriteFrame.refl _ s
  | rcon => exact { WriteFrame.refl _ s with rcon := fun h => absurd hp h }

/-- A data write changes the byte or register at its address and nothing else. -/
theorem memWrite_frame {t : DataAddr} {v : Byte} {masked : Bool} {s s' : State} (h : memWrite t v masked s = .next s') :
    WriteFrame t s s' := by
  obtain ⟨hw, rfl⟩ := memWrite_eq_next.1 h
  unfold afterWrite
  unfold writable at hw
  cases hp : placeOf s.cfg t with
  | gpr =>
    exact { WriteFrame.refl t s with
      dm := fun a ha => Memory.read_write_ne _ _ _ _ fun e => ha (BitVec.eq_of_toNat_eq e) }
  | virt => exact WriteFrame.refl t s
  | outside => exact { WriteFrame.refl t s with periphOut := fun a ha => Memory.read_write_ne _ _ _ _ ha }
  | core r =>
    refine sfrWrite_frame v masked hp fun hr => ?_
    simp only [hp, hr, Bool.true_and, Bool.and_eq_true, Bool.not_eq_true', beq_eq_false_iff_ne] at hw
    exact hw.2

end Sys2Proof.Machine
end

