-- ==== Sys2Proof/Laws/PerInstr.lean ====
section
/-! SUPPORT. A property of every instruction as syntax, one lemma per constructor: its first word is assigned and
tells the instruction's length (30_encoding.md R130, R150, R160). -/

namespace Sys2Proof.Laws.Size

/-- The first word of a well-formed instruction is assigned, and it is the first word of a two-word instruction exactly
when the instruction has a second word. -/
def Statement (i : Instr) : Prop :=
  i.wellFormed = true → isAssigned (encodeFirst i) = true ∧ isTwoWordFirst (encodeFirst i) = (encodeSecond i).isSome

theorem of_bytes {i : Instr} (h l : Byte) (e : encodeFirst i = h ++ l) (h1 : (decodeHigh h l 0xF000#16).isSome = true)
    (h2 : (h.extractLsb' 4 4 == 0xC#4 || h.extractLsb' 1 7 == 0b1110110#7 || h == 0xEF#8
      || (h == 0xEE#8 && l.extractLsb' 6 2 == 0#2)) = (encodeSecond i).isSome) : Statement i := fun _ =>
  ⟨by rw [e, isAssigned_append, h1], by rw [e, isTwoWordFirst_append, h2]⟩

theorem cases3 : ∀ b : BitVec 3, b = 0#3 ∨ b = 1#3 ∨ b = 2#3 ∨ b = 3#3 ∨ b = 4#3 ∨ b = 5#3 ∨ b = 6#3 ∨ b = 7#3 := by decide

theorem cases4 : ∀ b : BitVec 4, b = 0#4 ∨ b = 1#4 ∨ b = 2#4 ∨ b = 3#4 ∨ b = 4#4 ∨ b = 5#4 ∨ b = 6#4 ∨ b = 7#4 ∨ b = 8#4 ∨ b = 9#4 ∨ b = 10#4 ∨ b = 11#4 ∨ b = 12#4 ∨ b = 13#4 ∨ b = 14#4 ∨ b = 15#4 := by decide

theorem addwf (f : Byte) (d : Dest) (a : RamSel) : Statement (.addwf f d a) := by
  cases d <;> cases a <;> exact of_bytes _ _ rfl rfl rfl

theorem addwfc (f : Byte) (d : Dest) (a : RamSel) : Statement (.addwfc f d a) := by
  cases d <;> cases a <;> exact of_bytes _ _ rfl rfl rfl

theorem andwf (f : Byte) (d : Dest) (a : RamSel) : Statement (.andwf f d a) := by
  cases d <;> cases a <;> exact of_bytes _ _ rfl rfl rfl

theorem clrf (f : Byte) (a : RamSel) : Statement (.clrf f a) := by
  cases a <;> exact of_bytes _ _ rfl rfl rfl

theorem comf (f : Byte) (d : Dest) (a : RamSel) : Statement (.comf f d a) := by
  cases d <;> cases a <;> exact of_bytes _ _ rfl rfl rfl

theorem cpfseq (f : Byte) (a : RamSel) : Statement (.cpfseq f a) := by
  cases a <;> exact of_bytes _ _ rfl rfl rfl

theorem cpfsgt (f : Byte) (a : RamSel) : Statement (.cpfsgt f a) := by
  cases a <;> exact of_bytes _ _ rfl rfl rfl

theorem cpfslt (f : Byte) (a : RamSel) : Statement (.cpfslt f a) := by
  cases a <;> exact of_bytes _ _ rfl rfl rfl

theorem decf (f : Byte) (d : Dest) (a : RamSel) : Statement (.decf f d a) := by
  cases d <;> cases a <;> exact of_bytes _ _ rfl rfl rfl

theorem decfsz (f : Byte) (d : Dest) (a : RamSel) : Statement (.decfsz f d a) := by
  cases d <;> cases a <;> exact of_bytes _ _ rfl rfl rfl

theorem dcfsnz (f : Byte) (d : Dest) (a : RamSel) : Statement (.dcfsnz f d a) := by
  cases d <;> cases a <;> exact of_bytes _ _ rfl rfl rfl

theorem incf (f : Byte) (d : Dest) (a : RamSel) : Statement (.incf f d a) := by
  cases d <;> cases a <;> exact of_bytes _ _ rfl rfl rfl

theorem incfsz (f : Byte) (d : Dest) (a : RamSel) : Statement (.incfsz f d a) := by
  cases d <;> cases a <;> exact of_bytes _ _ rfl rfl rfl

theorem infsnz (f : Byte) (d : Dest) (a : RamSel) : Statement (.infsnz f d a) := by
  cases d <;> cases a <;> exact of_bytes _ _ rfl rfl rfl

theorem iorwf (f : Byte) (d : Dest) (a : RamSel) : Statement (.iorwf f d a) := by
  cases d <;> cases a <;> exact of_bytes _ _ rfl rfl rfl

theorem movf (f : Byte) (d : Dest) (a : RamSel) : Statement (.movf f d a) := by
  cases d <;> cases a <;> exact of_bytes _ _ rfl rfl rfl

theorem movff (fs fd : DataAddr) : Statement (.movff fs fd) := by
  rcases cases4 (fs.extractLsb' 8 4) with h | h | h | h | h | h | h | h | h | h | h | h | h | h | h | h <;>
    exact of_bytes _ _ (by simp only [encodeFirst, h]; rfl) rfl rfl

theorem movwf (f : Byte) (a : RamSel) : Statement (.movwf f a) := by
  cases a <;> exact of_bytes _ _ rfl rfl rfl

theorem mulwf (f : Byte) (a : RamSel) : Statement (.mulwf f a) := by
  cases a <;> exact of_bytes _ _ rfl rfl rfl

theorem negf (f : Byte) (a : RamSel) : Statement (.negf f a) := by
  cases a <;> exact of_bytes _ _ rfl rfl rfl

theorem rlcf (f : Byte) (d : Dest) (a : RamSel) : Statement (.rlcf f d a) := by
  cases d <;> cases a <;> exact of_bytes _ _ rfl rfl rfl

theorem rlncf (f : Byte) (d : Dest) (a : RamSel) : Statement (.rlncf f d a) := by
  cases d <;> cases a <;> exact of_bytes _ _ rfl rfl rfl

theorem rrcf (f : Byte) (d : Dest) (a : RamSel) : Statement (.rrcf f d a) := by
  cases d <;> cases a <;> exact of_bytes _ _ rfl rfl rfl

theorem rrncf (f : Byte) (d : Dest) (a : RamSel) : Statement (.rrncf f d a) := by
  cases d <;> cases a <;> exact of_bytes _ _ rfl rfl rfl

theorem setf (f : Byte) (a : RamSel) : Statement (.setf f a) := by
  cases a <;> exact of_bytes _ _ rfl rfl rfl

theorem subfwb (f : Byte) (d : Dest) (a : RamSel) : Statement (.subfwb f d a) := by
  cases d <;> cases a <;> exact of_bytes _ _ rfl rfl rfl

theorem subwf (f : Byte) (d : Dest) (a : RamSel) : Statement (.subwf f d a) := by
  cases d <;> cases a <;> exact of_bytes _ _ rfl rfl rfl

theorem subwfb (f : Byte) (d : Dest) (a : RamSel) : Statement (.subwfb f d a) := by
  cases d <;> cases a <;> exact of_bytes _ _ rfl rfl rfl

theorem swapf (f : Byte) (d : Dest) (a : RamSel) : Statement (.swapf f d a) := by
  cases d <;> cases a <;> exact of_bytes _ _ rfl rfl rfl

theorem tstfsz (f : Byte) (a : RamSel) : Statement (.tstfsz f a) := by
  cases a <;> exact of_bytes _ _ rfl rfl rfl

theorem xorwf (f : Byte) (d : Dest) (a : RamSel) : Statement (.xorwf f d a) := by
  cases d <;> cases a <;> exact of_bytes _ _ rfl rfl rfl

theorem bcf (f : Byte) (b : BitVec 3) (a : RamSel) : Statement (.bcf f b a) := by
  rcases cases3 b with rfl | rfl | rfl | rfl | rfl | rfl | rfl | rfl <;> cases a <;> exact of_bytes _ _ rfl rfl rfl

theorem bsf (f : Byte) (b : BitVec 3) (a : RamSel) : Statement (.bsf f b a) := by
  rcases cases3 b with rfl | rfl | rfl | rfl | rfl | rfl | rfl | rfl <;> cases a <;> exact of_bytes _ _ rfl rfl rfl

theorem btfsc (f : Byte) (b : BitVec 3) (a : RamSel) : Statement (.btfsc f b a) := by
  rcases cases3 b with rfl | rfl | rfl | rfl | rfl | rfl | rfl | rfl <;> cases a <;> exact of_bytes _ _ rfl rfl rfl

theorem btfss (f : Byte) (b : BitVec 3) (a : RamSel) : Statement (.btfss f b a) := by
  rcases cases3 b with rfl | rfl | rfl | rfl | rfl | rfl | rfl | rfl <;> cases a <;> exact of_bytes _ _ rfl rfl rfl

theorem btg (f : Byte) (b : BitVec 3) (a : RamSel) : Statement (.btg f b a) := by
  rcases cases3 b with rfl | rfl | rfl | rfl | rfl | rfl | rfl | rfl <;> cases a <;> exact of_bytes _ _ rfl rfl rfl

theorem bc (n : BitVec 8) : Statement (.bc n) := by
  exact of_bytes _ _ rfl rfl rfl

theorem bn (n : BitVec 8) : Statement (.bn n) := by
  exact of_bytes _ _ rfl rfl rfl

theorem bnc (n : BitVec 8) : Statement (.bnc n) := by
  exact of_bytes _ _ rfl rfl rfl

theorem bnn (n : BitVec 8) : Statement (.bnn n) := by
  exact of_bytes _ _ rfl rfl rfl

theorem bnov (n : BitVec 8) : Statement (.bnov n) := by
  exact of_bytes _ _ rfl rfl rfl

theorem bnz (n : BitVec 8) : Statement (.bnz n) := by
  exact of_bytes _ _ rfl rfl rfl

theorem bov (n : BitVec 8) : Statement (.bov n) := by
  exact of_bytes _ _ rfl rfl rfl

theorem bra (n : BitVec 11) : Statement (.bra n) := by
  rcases cases3 (n.extractLsb' 8 3) with h | h | h | h | h | h | h | h <;>
    exact of_bytes _ _ (by simp only [encodeFirst, formatRel11, h]; rfl) rfl rfl

theorem bz (n : BitVec 8) : Statement (.bz n) := by
  exact of_bytes _ _ rfl rfl rfl

theorem call (k : BitVec 20) (fast : Bool) : Statement (.call k fast) := by
  cases fast <;> exact of_bytes _ _ rfl rfl rfl

theorem clrwdt : Statement (.clrwdt) := fun _ => ⟨rfl, rfl⟩

theorem daw : Statement (.daw) := fun _ => ⟨rfl, rfl⟩

theorem goto (k : BitVec 20) : Statement (.goto k) := by
  exact of_bytes _ _ rfl rfl rfl

theorem nop : Statement (.nop) := fun _ => ⟨rfl, rfl⟩

theorem nop2 (x : BitVec 12) : Statement (.nop2 x) := by
  rcases cases4 (x.extractLsb' 8 4) with h | h | h | h | h | h | h | h | h | h | h | h | h | h | h | h <;>
    exact of_bytes _ _ (by simp only [encodeFirst, h]; rfl) rfl rfl

theorem pop : Statement (.pop) := fun _ => ⟨rfl, rfl⟩

theorem push : Statement (.push) := fun _ => ⟨rfl, rfl⟩

theorem rcall (n : BitVec 11) : Statement (.rcall n) := by
  rcases cases3 (n.extractLsb' 8 3) with h | h | h | h | h | h | h | h <;>
    exact of_bytes _ _ (by simp only [encodeFirst, formatRel11, h]; rfl) rfl rfl

theorem reset : Statement (.reset) := fun _ => ⟨rfl, rfl⟩

theorem retfie (fast : Bool) : Statement (.retfie fast) := by
  cases fast <;> exact of_bytes _ _ rfl rfl rfl

theorem retlw (k : Byte) : Statement (.retlw k) := by
  exact of_bytes _ _ rfl rfl rfl

theorem retn (fast : Bool) : Statement (.retn fast) := by
  cases fast <;> exact of_bytes _ _ rfl rfl rfl

theorem sleep : Statement (.sleep) := fun _ => ⟨rfl, rfl⟩

theorem addlw (k : Byte) : Statement (.addlw k) := by
  exact of_bytes _ _ rfl rfl rfl

theorem andlw (k : Byte) : Statement (.andlw k) := by
  exact of_bytes _ _ rfl rfl rfl

theorem iorlw (k : Byte) : Statement (.iorlw k) := by
  exact of_bytes _ _ rfl rfl rfl

theorem lfsr (ff : BitVec 2) (k : BitVec 12) : Statement (.lfsr ff k) := by
  have key : ∀ (ff : BitVec 2) (y : BitVec 4), ff ≠ 3#2 →
      (decodeHigh 0xEE#8 (0b00#2 ++ ff ++ y) 0xF000#16).isSome = true ∧
        (0b00#2 ++ ff ++ y : BitVec 8).extractLsb' 6 2 = 0#2 := by decide
  intro hw
  have hff : ff ≠ 3#2 := by simpa [Instr.wellFormed] using hw
  obtain ⟨h1, h2⟩ := key ff (k.extractLsb' 8 4) hff
  exact of_bytes (i := .lfsr ff k) 0xEE#8 _ rfl h1 (by rw [h2]; rfl) hw

theorem movlb (k : BitVec 4) : Statement (.movlb k) := by
  rcases cases4 k with rfl | rfl | rfl | rfl | rfl | rfl | rfl | rfl | rfl | rfl | rfl | rfl | rfl | rfl | rfl | rfl <;> exact of_bytes _ _ rfl rfl rfl

theorem movlw (k : Byte) : Statement (.movlw k) := by
  exact of_bytes _ _ rfl rfl rfl

theorem mullw (k : Byte) : Statement (.mullw k) := by
  exact of_bytes _ _ rfl rfl rfl

theorem sublw (k : Byte) : Statement (.sublw k) := by
  exact of_bytes _ _ rfl rfl rfl

theorem xorlw (k : Byte) : Statement (.xorlw k) := by
  exact of_bytes _ _ rfl rfl rfl

theorem tblrd : Statement (.tblrd) := fun _ => ⟨rfl, rfl⟩

theorem tblrdPostInc : Statement (.tblrdPostInc) := fun _ => ⟨rfl, rfl⟩

theorem tblrdPostDec : Statement (.tblrdPostDec) := fun _ => ⟨rfl, rfl⟩

theorem tblrdPreInc : Statement (.tblrdPreInc) := fun _ => ⟨rfl, rfl⟩

theorem tblwt : Statement (.tblwt) := fun _ => ⟨rfl, rfl⟩

theorem tblwtPostInc : Statement (.tblwtPostInc) := fun _ => ⟨rfl, rfl⟩

theorem tblwtPostDec : Statement (.tblwtPostDec) := fun _ => ⟨rfl, rfl⟩

theorem tblwtPreInc : Statement (.tblwtPreInc) := fun _ => ⟨rfl, rfl⟩

end Sys2Proof.Laws.Size
end

