-- ==== Sys2Proof/Tests/Slice0.lean ====
section
/-! SUPPORT. Tests: the WellFormed check, one decoded word for every row of the opcode table, one step of every
instruction on a small state, and for every statement with hypotheses a witness that meets them. Expected values are
those of 95_test_vectors.md and of the examples in the rules. -/

namespace Sys2Proof.Tests

open Sys2Proof Sys2Proof.Machine

/-! WellFormed -/

theorem test_wellFormed_refuses_lfsr_ff_3 : (Instr.lfsr 3 0x3AB).wellFormed = false := by decide

theorem test_wellFormed_accepts_lfsr_ff_2 : (Instr.lfsr 2 0x3AB).wellFormed = true := by decide

/-! Decode: 95_test_vectors.md section 2.1, one word for every row -/

/-- The bytes decode to the instruction with none left, and the instruction encodes to them. -/
def decodesTo (p : List Byte × Instr) : Bool :=
  (match decode p.1 with
    | .ok (i, []) => i == p.2
    | _ => false) && encodeBytes p.2 == p.1

/-- The bytes are not an instruction, for this reason. -/
def rejects (p : List Byte × Reject) : Bool :=
  match decode p.1 with
  | .error e => e == p.2
  | .ok _ => false

theorem test_decode_byte_oriented_first : [
    ([0xA9, 0x24], Instr.addwf 0xA9 .w .access),
    ([0x3D, 0x20], Instr.addwfc 0x3D .w .access),
    ([0x7D, 0x15], Instr.andwf 0x7D .w .banked),
    ([0x7E, 0x6B], Instr.clrf 0x7E .banked),
    ([0x4B, 0x1C], Instr.comf 0x4B .w .access),
    ([0xE3, 0x62], Instr.cpfseq 0xE3 .access),
    ([0x32, 0x64], Instr.cpfsgt 0x32 .access),
    ([0xE6, 0x60], Instr.cpfslt 0xE6 .access),
    ([0x53, 0x06], Instr.decf 0x53 .f .access),
    ([0xC3, 0x2F], Instr.decfsz 0xC3 .f .banked),
    ([0xDD, 0x4E], Instr.dcfsnz 0xDD .f .access),
    ([0xCF, 0x2B], Instr.incf 0xCF .f .banked),
    ([0x3C, 0x3C], Instr.incfsz 0x3C .w .access),
    ([0x5D, 0x49], Instr.infsnz 0x5D .w .banked),
    ([0x33, 0x13], Instr.iorwf 0x33 .f .banked),
    ([0xE4, 0x53], Instr.movf 0xE4 .f .banked)].all decodesTo = true := by decide

theorem test_decode_byte_oriented_second : [
    ([0xF8, 0xCD, 0x18, 0xFC], Instr.movff 0xDF8 0xC18),
    ([0x7E, 0x6F], Instr.movwf 0x7E .banked),
    ([0xB7, 0x02], Instr.mulwf 0xB7 .access),
    ([0x43, 0x6C], Instr.negf 0x43 .access),
    ([0xF9, 0x34], Instr.rlcf 0xF9 .w .access),
    ([0xC5, 0x44], Instr.rlncf 0xC5 .w .access),
    ([0x89, 0x32], Instr.rrcf 0x89 .f .access),
    ([0x92, 0x41], Instr.rrncf 0x92 .w .banked),
    ([0x45, 0x69], Instr.setf 0x45 .banked),
    ([0x99, 0x56], Instr.subfwb 0x99 .f .access),
    ([0x8D, 0x5E], Instr.subwf 0x8D .f .access),
    ([0x7A, 0x58], Instr.subwfb 0x7A .w .access),
    ([0x80, 0x3B], Instr.swapf 0x80 .f .banked),
    ([0x7E, 0x66], Instr.tstfsz 0x7E .access),
    ([0xA1, 0x1B], Instr.xorwf 0xA1 .f .banked)].all decodesTo = true := by decide

theorem test_decode_bit_oriented : [
    ([0x30, 0x9C], Instr.bcf 0x30 6 .access),
    ([0xAF, 0x83], Instr.bsf 0xAF 1 .banked),
    ([0x21, 0xBC], Instr.btfsc 0x21 6 .access),
    ([0x7A, 0xA7], Instr.btfss 0x7A 3 .banked),
    ([0xE9, 0x78], Instr.btg 0xE9 4 .access)].all decodesTo = true := by decide

theorem test_decode_branches : [
    ([0xB4, 0xE2], Instr.bc 0xB4),
    ([0x33, 0xE6], Instr.bn 0x33),
    ([0x96, 0xE3], Instr.bnc 0x96),
    ([0x42, 0xE7], Instr.bnn 0x42),
    ([0x88, 0xE5], Instr.bnov 0x88),
    ([0xD8, 0xE1], Instr.bnz 0xD8),
    ([0x56, 0xE4], Instr.bov 0x56),
    ([0x53, 0xD6], Instr.bra 0x653),
    ([0xCF, 0xE0], Instr.bz 0xCF),
    ([0xEE, 0xDB], Instr.rcall 0x3EE)].all decodesTo = true := by decide

theorem test_decode_control : [
    ([0xD2, 0xED, 0x84, 0xFA], Instr.call 0xA84D2 true),
    ([0x04, 0x00], Instr.clrwdt),
    ([0x07, 0x00], Instr.daw),
    ([0x8B, 0xEF, 0x82, 0xF7], Instr.goto 0x7828B),
    ([0x00, 0x00], Instr.nop),
    ([0x6B, 0xF1], Instr.nop2 0x16B),
    ([0x06, 0x00], Instr.pop),
    ([0x05, 0x00], Instr.push),
    ([0xFF, 0x00], Instr.reset),
    ([0x10, 0x00], Instr.retfie false),
    ([0x11, 0x00], Instr.retfie true),
    ([0x7A, 0x0C], Instr.retlw 0x7A),
    ([0x12, 0x00], Instr.retn false),
    ([0x13, 0x00], Instr.retn true),
    ([0x03, 0x00], Instr.sleep)].all decodesTo = true := by decide

theorem test_decode_literal : [
    ([0x7D, 0x0F], Instr.addlw 0x7D),
    ([0x14, 0x0B], Instr.andlw 0x14),
    ([0x3F, 0x09], Instr.iorlw 0x3F),
    ([0x21, 0xEE, 0x8B, 0xF0], Instr.lfsr 2 0x18B),
    ([0x05, 0x01], Instr.movlb 5),
    ([0x34, 0x0E], Instr.movlw 0x34),
    ([0xEE, 0x0D], Instr.mullw 0xEE),
    ([0xE9, 0x08], Instr.sublw 0xE9),
    ([0xC8, 0x0A], Instr.xorlw 0xC8)].all decodesTo = true := by decide

theorem test_decode_table : [
    ([0x08, 0x00], Instr.tblrd),
    ([0x09, 0x00], Instr.tblrdPostInc),
    ([0x0A, 0x00], Instr.tblrdPostDec),
    ([0x0B, 0x00], Instr.tblrdPreInc),
    ([0x0C, 0x00], Instr.tblwt),
    ([0x0D, 0x00], Instr.tblwtPostInc),
    ([0x0E, 0x00], Instr.tblwtPostDec),
    ([0x0F, 0x00], Instr.tblwtPreInc)].all decodesTo = true := by decide

/-- 30_encoding.md R160, R151: the borders of the unassigned words, LFSR's `ff = 11`, second words without their bits. -/
theorem test_decode_rejects : [
    ([0x01, 0x00], Reject.unassigned 0x0001), ([0x02, 0x00], .unassigned 0x0002), ([0x14, 0x00], .unassigned 0x0014),
    ([0xFE, 0x00], .unassigned 0x00FE), ([0x10, 0x01], .unassigned 0x0110), ([0xFF, 0x01], .unassigned 0x01FF),
    ([0x00, 0xE8], .unassigned 0xE800), ([0xFF, 0xEB], .unassigned 0xEBFF), ([0x30, 0xEE], .unassigned 0xEE30),
    ([0xFF, 0xEE], .unassigned 0xEEFF), ([0x20, 0xC0, 0x50, 0x0B], .malformedSecondWord 0x0B50),
    ([0x03, 0xEE, 0xAB, 0xF1], .malformedSecondWord 0xF1AB), ([0x20, 0xC0], .truncated), ([0x20], .truncated)].all
    rejects = true := by decide

/-- The table's numbering: bit 0 of the first word first, absent operand words zero. -/
theorem test_decodeTableWord :
    decodeTableWord 16 0x2620 = some (.addwf 0x20 .f .access) ∧ decodeTableWord 16 0xC020 = some (.movff 0x020 0x000) ∧
      decodeTableWord 32 0xF009EF1A = some (.goto 0x0091A) ∧ decodeTableWord 16 0x0001 = none := by decide

/-- A word placed by `withFetchWord` is what the first step after reset runs. -/
theorem test_withFetchWord :
    (match step (State.reset.withFetchWord 16 0x0E5A) with
      | .next t => t.w == 0x5A && t.pc == 2
      | _ => false) = true := by decide

/-! One step of every instruction -/

/-- The vectors' start state: pc = 0x100, WREG, DM[0x020] and the flags as given. -/
def start (w f : Byte) (fl : Flags) : State :=
  { State.reset with pc := 0x100, w := w, flags := fl, dm := Memory.write .data [] 0x20 f }

/-- The flags from the bits N, OV, Z, DC, C. -/
def fl (b : BitVec 5) : Flags := flagsOfByte (b.zeroExtend 8)

/-- The instruction completes, in a state that passes. -/
def after (i : Instr) (s : State) (p : State → Bool) : Bool :=
  match exec i s with
  | .next t => p t
  | .fault _ | .refused _ => false

/-- DM[0x020], the flags and the pc after an instruction. -/
def leaves (v : Byte) (b : BitVec 5) (pc : ProgAddr) (t : State) : Bool :=
  t.dmByte 0x20 == v && t.flags == fl b && t.pc == pc

/-- WREG, the flags and the pc after an instruction. -/
def leavesW (v : Byte) (b : BitVec 5) (pc : ProgAddr) (t : State) : Bool :=
  t.w == v && t.flags == fl b && t.pc == pc

/-- V4. -/
theorem test_addwf :
    after (.addwf 0x20 .f .access) (start 0x01 0x7F (fl 0b00000#5)) (leaves 0x80 0b11010#5 0x102) = true := by decide

/-- V9. -/
theorem test_addwfc :
    after (.addwfc 0x20 .w .access) (start 0xFF 0x00 (fl 0b00001#5)) (leavesW 0x00 0b00111#5 0x102) = true := by decide

/-- V12. -/
theorem test_andwf :
    after (.andwf 0x20 .f .access) (start 0x17 0xC2 (fl 0b01011#5)) (leaves 0x02 0b01011#5 0x102) = true := by decide

/-- V16. -/
theorem test_clrf :
    after (.clrf 0x20 .access) (start 0x00 0x5A (fl 0b10001#5)) (leaves 0x00 0b10101#5 0x102) = true := by decide

/-- V17. -/
theorem test_comf :
    after (.comf 0x20 .f .access) (start 0x00 0x13 (fl 0b00000#5)) (leaves 0xEC 0b10000#5 0x102) = true := by decide

/-- V19. -/
theorem test_cpfseq :
    after (.cpfseq 0x20 .access) (start 0x33 0x33 (fl 0b00000#5)) (leavesW 0x33 0b00000#5 0x104) = true := by decide

/-- V21. -/
theorem test_cpfsgt :
    after (.cpfsgt 0x20 .access) (start 0x7F 0x80 (fl 0b00000#5)) (leavesW 0x7F 0b00000#5 0x104) = true := by decide

/-- V24. -/
theorem test_cpfslt :
    after (.cpfslt 0x20 .access) (start 0x80 0x7F (fl 0b00000#5)) (leavesW 0x80 0b00000#5 0x104) = true := by decide

/-- V29. -/
theorem test_decf :
    after (.decf 0x20 .f .access) (start 0x00 0x80 (fl 0b00000#5)) (leaves 0x7F 0b01001#5 0x102) = true := by decide

/-- V31. -/
theorem test_decfsz :
    after (.decfsz 0x20 .f .access) (start 0x00 0x01 (fl 0b10001#5)) (leaves 0x00 0b10001#5 0x104) = true := by decide

/-- V37. -/
theorem test_dcfsnz :
    after (.dcfsnz 0x20 .f .access) (start 0x00 0x00 (fl 0b00000#5)) (leaves 0xFF 0b00000#5 0x104) = true := by decide

/-- V38. -/
theorem test_incf :
    after (.incf 0x20 .f .access) (start 0x00 0xFF (fl 0b00000#5)) (leaves 0x00 0b00111#5 0x102) = true := by decide

/-- V42. -/
theorem test_incfsz :
    after (.incfsz 0x20 .f .access) (start 0x00 0xFF (fl 0b00000#5)) (leaves 0x00 0b00000#5 0x104) = true := by decide

/-- V45. -/
theorem test_infsnz :
    after (.infsnz 0x20 .f .access) (start 0x00 0xFF (fl 0b00000#5)) (leaves 0x00 0b00000#5 0x102) = true := by decide

/-- V46. -/
theorem test_iorwf :
    after (.iorwf 0x20 .f .access) (start 0x91 0x13 (fl 0b00000#5)) (leaves 0x93 0b10000#5 0x102) = true := by decide

/-- V49. -/
theorem test_movf :
    after (.movf 0x20 .w .access) (start 0x00 0x80 (fl 0b00000#5)) (leavesW 0x80 0b10000#5 0x102) = true := by decide

/-- V52. -/
theorem test_movff :
    after (.movff 0xFE8 0x020) (start 0x9C 0x00 (fl 0b00000#5)) (leaves 0x9C 0b00000#5 0x104) = true := by decide

/-- V58. -/
theorem test_movwf :
    after (.movwf 0x20 .access) (start 0x4F 0xFF (fl 0b00100#5)) (leaves 0x4F 0b00100#5 0x102) = true := by decide

/-- V66. -/
theorem test_negf :
    after (.negf 0x20 .access) (start 0x00 0x80 (fl 0b00000#5)) (leaves 0x80 0b11010#5 0x102) = true := by decide

/-- V71. -/
theorem test_rlcf :
    after (.rlcf 0x20 .f .access) (start 0x00 0x40 (fl 0b01011#5)) (leaves 0x81 0b11010#5 0x102) = true := by decide

/-- V72. -/
theorem test_rlncf :
    after (.rlncf 0x20 .f .access) (start 0x00 0xAB (fl 0b00000#5)) (leaves 0x57 0b00000#5 0x102) = true := by decide

/-- V76. -/
theorem test_rrcf :
    after (.rrcf 0x20 .f .access) (start 0x00 0x00 (fl 0b00001#5)) (leaves 0x80 0b10000#5 0x102) = true := by decide

/-- V77. -/
theorem test_rrncf :
    after (.rrncf 0x20 .f .access) (start 0x00 0xD7 (fl 0b00000#5)) (leaves 0xEB 0b10000#5 0x102) = true := by decide

/-- V79. -/
theorem test_setf :
    after (.setf 0x20 .access) (start 0x00 0x5A (fl 0b00000#5)) (leaves 0xFF 0b00000#5 0x102) = true := by decide

/-- V80. -/
theorem test_subfwb :
    after (.subfwb 0x20 .f .access) (start 0x02 0x03 (fl 0b00001#5)) (leaves 0xFF 0b10000#5 0x102) = true := by decide

/-- V87. -/
theorem test_subwf :
    after (.subwf 0x20 .f .access) (start 0x80 0x7F (fl 0b00000#5)) (leaves 0xFF 0b11010#5 0x102) = true := by decide

/-- V91. -/
theorem test_subwfb :
    after (.subwfb 0x20 .f .access) (start 0xFF 0x00 (fl 0b00000#5)) (leaves 0x00 0b00100#5 0x102) = true := by decide

/-- V92. -/
theorem test_swapf :
    after (.swapf 0x20 .f .access) (start 0x00 0x53 (fl 0b00100#5)) (leaves 0x35 0b00100#5 0x102) = true := by decide

/-- V94. -/
theorem test_tstfsz :
    after (.tstfsz 0x20 .access) (start 0x00 0x00 (fl 0b00000#5)) (leaves 0x00 0b00000#5 0x104) = true := by decide

/-- V97. -/
theorem test_xorwf :
    after (.xorwf 0x20 .w .access) (start 0x5A 0x5A (fl 0b00000#5)) (leavesW 0x00 0b00100#5 0x102) = true := by decide

/-- V149. -/
theorem test_bcf :
    after (.bcf 0x20 7 .access) (start 0x00 0xFF (fl 0b10000#5)) (leaves 0x7F 0b10000#5 0x102) = true := by decide

/-- V152. -/
theorem test_bsf :
    after (.bsf 0x20 7 .access) (start 0x00 0x0A (fl 0b00000#5)) (leaves 0x8A 0b00000#5 0x102) = true := by decide

/-- V158. -/
theorem test_btfsc :
    after (.btfsc 0x20 3 .access) (start 0x00 0xF7 (fl 0b00000#5)) (leaves 0xF7 0b00000#5 0x104) = true := by decide

/-- V160. -/
theorem test_btfss :
    after (.btfss 0x20 3 .access) (start 0x00 0x08 (fl 0b00000#5)) (leaves 0x08 0b00000#5 0x104) = true := by decide

/-- V155. -/
theorem test_btg :
    after (.btg 0x20 4 .access) (start 0x00 0x75 (fl 0b00000#5)) (leaves 0x65 0b00000#5 0x102) = true := by decide

/-- V184. -/
theorem test_bc :
    after (.bc 0x80) (start 0x00 0x00 (fl 0b00001#5)) (leavesW 0x00 0b00001#5 0x2) = true := by decide

/-- R272. -/
theorem test_bn :
    after (.bn 0xFE) (start 0x00 0x00 (fl 0b10000#5)) (leavesW 0x00 0b10000#5 0xFE) = true := by decide

/-- R273. -/
theorem test_bnc :
    after (.bnc 0x7F) (start 0x00 0x00 (fl 0b00000#5)) (leavesW 0x00 0b00000#5 0x200) = true := by decide

/-- R274. -/
theorem test_bnn :
    after (.bnn 0x80) (start 0x00 0x00 (fl 0b00000#5)) (leavesW 0x00 0b00000#5 0x2) = true := by decide

/-- V175. -/
theorem test_bnov :
    after (.bnov 0x05) (start 0x00 0x00 (fl 0b01000#5)) (leavesW 0x00 0b01000#5 0x102) = true := by decide

/-- R276. -/
theorem test_bnz :
    after (.bnz 0xFD) (start 0x00 0x00 (fl 0b00000#5)) (leavesW 0x00 0b00000#5 0xFC) = true := by decide

/-- V173. -/
theorem test_bov :
    after (.bov 0x05) (start 0x00 0x00 (fl 0b01000#5)) (leavesW 0x00 0b01000#5 0x10C) = true := by decide

/-- V186. -/
theorem test_bra :
    after (.bra 0x3FF) (start 0x00 0x00 (fl 0b00000#5)) (leavesW 0x00 0b00000#5 0x900) = true := by decide

/-- V165. -/
theorem test_bz :
    after (.bz 0x05) (start 0x00 0x00 (fl 0b00100#5)) (leavesW 0x00 0b00100#5 0x10C) = true := by decide

/-- V219. -/
theorem test_daw :
    after (.daw) (start 0xCE 0x00 (fl 0b00000#5)) (leavesW 0x34 0b00001#5 0x102) = true := by decide

/-- R283. -/
theorem test_goto :
    after (.goto 0x0091A) (start 0x00 0x00 (fl 0b00000#5)) (leavesW 0x00 0b00000#5 0x1234) = true := by decide

/-- V211. -/
theorem test_nop :
    after (.nop) (start 0x12 0x00 (fl 0b00001#5)) (leavesW 0x12 0b00001#5 0x102) = true := by decide

/-- V213. -/
theorem test_nop2 :
    after (.nop2 0xABC) (start 0x12 0x00 (fl 0b00001#5)) (leavesW 0x12 0b00001#5 0x102) = true := by decide

/-- V240. -/
theorem test_addlw :
    after (.addlw 0x80) (start 0x80 0x00 (fl 0b00000#5)) (leavesW 0x00 0b01101#5 0x102) = true := by decide

/-- V244. -/
theorem test_andlw :
    after (.andlw 0xF0) (start 0x8F 0x00 (fl 0b00000#5)) (leavesW 0x80 0b10000#5 0x102) = true := by decide

/-- V245. -/
theorem test_iorlw :
    after (.iorlw 0x35) (start 0x9A 0x00 (fl 0b00000#5)) (leavesW 0xBF 0b10000#5 0x102) = true := by decide

/-- V250. -/
theorem test_movlw :
    after (.movlw 0x5A) (start 0x11 0x00 (fl 0b10100#5)) (leavesW 0x5A 0b10100#5 0x102) = true := by decide

/-- V262. -/
theorem test_sublw :
    after (.sublw 0x80) (start 0x01 0x00 (fl 0b00000#5)) (leavesW 0x7F 0b01001#5 0x102) = true := by decide

/-- V247. -/
theorem test_xorlw :
    after (.xorlw 0xAF) (start 0xB5 0x00 (fl 0b00000#5)) (leavesW 0x1A 0b00000#5 0x102) = true := by decide

/-- A subroutine's state: two return addresses, the upper one odd (V201), and shadows (V199). -/
def called : State :=
  ({ start 0x01 0x77 (fl 0) with sp := 2, ws := 0x5A, statuss := 0x15, bsrs := 0x07 }.setEntry 1 0x200).setEntry 2 0x301

/-- The words 0x1234, 0x5678 at 0x200, TABLAT = 0x5A. -/
def table (p : BitVec 22) : State :=
  { start 0 0 (fl 0) with
    tblptr := p, tablat := 0x5A, pm := Memory.writeAll .program [] [(0x200, 0x34), (0x201, 0x12), (0x202, 0x78), (0x203, 0x56)] }

/-- V61. -/
theorem test_mulwf :
    after (.mulwf 0x20 .access) (start 0xC4 0xB5 (fl 0))
      (fun t => t.prodh == 0x8A && t.prodl == 0x94 && t.w == 0xC4 && t.pc == 0x102) = true := by decide

/-- V258. -/
theorem test_mullw :
    after (.mullw 0xFF) (start 0xFF 0 (fl 0))
      (fun t => t.prodh == 0xFE && t.prodl == 0x01 && t.pc == 0x102) = true := by decide

/-- V54. -/
theorem test_movff_postinc :
    after (.movff 0xFEE 0xFE6) ({ start 0 0xAB (fl 0) with fsr0 := 0x020, fsr1 := 0x040 })
      (fun t => t.fsr0 == 0x021 && t.fsr1 == 0x041 && t.dmByte 0x40 == 0xAB) = true := by decide

/-- V131. -/
theorem test_addwf_pcl :
    after (.addwf 0xF9 .f .access) ({ start 0x04 0 (fl 0) with pclath := 0x01 })
      (fun t => t.pc == 0x106 && t.pclath == 0x01) = true := by decide

/-- V128. -/
theorem test_movf_pcl :
    after (.movf 0xF9 .w .access) ({ start 0 0 (fl 0) with pclath := 0x55, pclatu := 0x0A })
      (fun t => t.w == 0x02 && t.pclath == 0x01 && t.pclatu == 0) = true := by decide

/-- V124. -/
theorem test_clrf_status :
    after (.clrf 0xD8 .access) (start 0 0 (fl 0b11011#5))
      (fun t => t.flags == fl 0b11111#5) = true := by decide

/-- V146. -/
theorem test_clrf_rcon :
    after (.clrf 0xD0 .access) ({ start 0 0 (fl 0) with lwrt := true })
      (fun t => t.lwrt && t.toBit && t.pdBit && !t.ri && t.flags.z) = true := by decide

/-- V111. -/
theorem test_plusw :
    after (.movf 0xEB .w .access) ({ start 0xFE 0x66 (fl 0) with fsr0 := 0x022 })
      (fun t => t.w == 0x66 && t.fsr0 == 0x022) = true := by decide

/-- V192. -/
theorem test_call :
    after (.call 0x0091A true) ({ start 0x11 0 (fl 0b10001#5) with bsr := 3 })
      (fun t => t.pc == 0x1234 && t.sp == 1 && t.entry 1 == 0x104 && t.ws == 0x11 && t.statuss == 0x11 && t.bsrs == 3) = true := by decide

/-- V189. -/
theorem test_rcall :
    after (.rcall 0x002) (start 0 0 (fl 0))
      (fun t => t.pc == 0x106 && t.sp == 1 && t.entry 1 == 0x102) = true := by decide

/-- V298. -/
theorem test_push :
    after (.push) ({ start 0 0 (fl 0) with sp := 30 })
      (fun t => t.pc == 0x102 && t.sp == 31 && t.stkful && t.entry 31 == 0x102) = true := by decide

/-- V209. -/
theorem test_pop :
    after (.pop) (called)
      (fun t => t.pc == 0x102 && t.sp == 1 && t.entry 2 == 0x301) = true := by decide

/-- V199. -/
theorem test_retn :
    after (.retn true) (called)
      (fun t => t.pc == 0x300 && t.sp == 1 && t.w == 0x5A && t.flags == fl 0b10101#5 && t.bsr == 7) = true := by decide

/-- V202. -/
theorem test_retlw :
    after (.retlw 0x99) (called)
      (fun t => t.pc == 0x300 && t.sp == 1 && t.w == 0x99) = true := by decide

/-- V207. -/
theorem test_retfie :
    after (.retfie false) ({ called with ipen := true, gieh := true })
      (fun t => t.pc == 0x300 && t.sp == 1 && t.gieh && t.giel) = true := by decide

/-- V214. -/
theorem test_clrwdt :
    after (.clrwdt) ({ start 0 0 (fl 0) with toBit := false, pdBit := false })
      (fun t => t.toBit && t.pdBit && t.pc == 0x102) = true := by decide

/-- V215. -/
theorem test_sleep :
    after (.sleep) (start 0 0 (fl 0))
      (fun t => t.toBit && !t.pdBit && t.asleep && t.pc == 0x102) = true := by decide

/-- V216. -/
theorem test_reset :
    after (.reset) ({ called with fsr0 := 0x123, tblptr := 0x1234 })
      (fun t => t.pc == 0 && t.sp == 0 && t.fsr0 == 0x023 && t.tblptr == 0 && !t.ri && t.dmByte 0x20 == 0x77) = true := by decide

/-- V264. -/
theorem test_lfsr :
    after (.lfsr 0 0x3AB) (start 0 0 (fl 0))
      (fun t => t.fsr0 == 0x3AB && t.pc == 0x104) = true := by decide

/-- V253. -/
theorem test_movlb :
    after (.movlb 15) (start 0 0 (fl 0))
      (fun t => t.bsr == 15 && t.pc == 0x102) = true := by decide

/-- V271. -/
theorem test_tblrd :
    after (.tblrd) (table 0x201)
      (fun t => t.tablat == 0x12 && t.tblptr == 0x201) = true := by decide

/-- V272. -/
theorem test_tblrdPostInc :
    after (.tblrdPostInc) (table 0x200)
      (fun t => t.tablat == 0x34 && t.tblptr == 0x201) = true := by decide

/-- V274. -/
theorem test_tblrdPostDec :
    after (.tblrdPostDec) (table 0x201)
      (fun t => t.tablat == 0x12 && t.tblptr == 0x200) = true := by decide

/-- V276. -/
theorem test_tblrdPreInc :
    after (.tblrdPreInc) (table 0x201)
      (fun t => t.tablat == 0x78 && t.tblptr == 0x202) = true := by decide

/-- V280. -/
theorem test_tblwt :
    after (.tblwt) (table 0x200)
      (fun t => t.hold0 == 0x5A && t.hold1 == 0 && t.tblptr == 0x200) = true := by decide

/-- V281. -/
theorem test_tblwtPostInc :
    after (.tblwtPostInc) (table 0x201)
      (fun t => t.hold1 == 0x5A && t.hold0 == 0 && t.tblptr == 0x202) = true := by decide

/-- V282. -/
theorem test_tblwtPostDec :
    after (.tblwtPostDec) (table 0x201)
      (fun t => t.hold1 == 0x5A && t.tblptr == 0x200) = true := by decide

/-- V283. -/
theorem test_tblwtPreInc :
    after (.tblwtPreInc) (table 0x200)
      (fun t => t.hold1 == 0x5A && t.hold0 == 0 && t.tblptr == 0x201) = true := by decide

/-- R158, R226, R228: high bytes 54 to 57 are SUBFWB (W - f), 58 to 5B are SUBWFB (f - W); the examples of the rules, run
from their words (V80, V88). -/
theorem test_words_of_the_subtractions_with_borrow :
    [(0x5620, 0x02, 0x03, 0xFF), (0x5A20, 0x0D, 0x19, 0x0C)].all (fun p : Nat × Byte × Byte × Byte =>
      match step ((start p.2.1 p.2.2.1 (fl 0b00001#5)).withFetchWord 16 p.1) with
      | .next t => t.dmByte 0x20 == p.2.2.2 && t.pc == 0x102
      | .fault _ | .refused _ => false) = true := by decide

/-- R285: an erased device executes NOP2 at every address, up to the end of implemented memory. -/
theorem test_erased_program_memory :
    wordAt State.reset 0x000000 = 0xFFFF ∧ wordAt State.reset 0x001FFE = 0xFFFF ∧
      step State.reset = .next (State.reset.setPc 2) ∧
      step (State.reset.setPc 0x2000) = .refused (.fetchOutsideProgramMemory 0x2000) :=
  ⟨by decide, by decide, rfl, rfl⟩

/-- R60: every address of the table names its register, and its neighbours outside the table name none. -/
theorem test_register_map :
    [(0xFFF#12, Sfr.tosu), (0xFFC, .stkptr), (0xFF9, .pcl), (0xFF6, .tblptrl), (0xFF2, .intcon), (0xFEA, .fsrh .f0),
      (0xFE9, .fsrl .f0), (0xFE8, .wreg), (0xFE2, .fsrh .f1), (0xFE0, .bsr), (0xFD9, .fsrl .f2), (0xFD8, .status),
      (0xFD0, .rcon)].all (fun p => sfrAt Config.default p.1 == some p.2) = true ∧
    [(0xFEF#12, Indirect.indf), (0xFEE, .postinc), (0xFED, .postdec), (0xFEC, .preinc), (0xFEB, .plusw)].all (fun p =>
      virtAt Config.default p.1 == some ⟨p.2, .f0⟩ && virtAt Config.default (p.1 - 8) == some ⟨p.2, .f1⟩ &&
        virtAt Config.default (p.1 - 16) == some ⟨p.2, .f2⟩) = true ∧
    [0xFF1#12, 0xFF0, 0xFD7, 0xFD1, 0xFCF].all (fun t => regAt Config.default t == none) = true := by decide

/-! Witnesses: for every statement with hypotheses a state and operands that meet them, clause by clause at the borders. -/

/-- The machine at `pc` with these words in program memory there. -/
def fetching (pc : ProgAddr) (words : List Word) : State :=
  { State.reset with
    pc := pc
    pm := Memory.writeAll .program [] (words.zipIdx.flatMap fun p =>
      [(pc.toNat + 2 * p.2, p.1.extractLsb' 0 8), (pc.toNat + 2 * p.2 + 1, p.1.extractLsb' 8 8)]) }

/-- The same, with other options. -/
def configured (s : State) (c : Config) : State := { s with cfg := c }

theorem witness_DecodeOfEncode :
    (Instr.lfsr 2 0xFFF).wellFormed = true ∧ (Instr.movff 0x000 0xFFF).wellFormed = true := by decide

theorem witness_EncodeOfDecode :
    decodeChecked 0xED1A 0xF009 = .ok (.call 0x0091A true) ∧ decodeChecked 0x2620 0x0000 = .ok (.addwf 0x20 .f .access) :=
  ⟨rfl, rfl⟩

theorem witness_UnassignedWords :
    silent (fetching 0x1FFE [0xEEFF]) = true ∧ (fetching 0x1FFE [0xEEFF]).asleep = false ∧
      fetchable (fetching 0x1FFE [0xEEFF]) 0x1FFE = true ∧
      isAssigned (wordAt (fetching 0x1FFE [0xEEFF]) 0x1FFE) = false ∧ Config.default.unassigned = .refuse ∧
      isAssigned (wordAt (configured (fetching 0x1FFE [0xEEFF]) { Config.default with unassigned := .nop }) 0x1FFE)
        = false := by decide

theorem witness_TwoWordInstructions :
    encodeSecond (.lfsr 0 0x0FF) = some 0xF0FF ∧ (0xF000#16).toNat / 2 ^ 12 = 0b1111 ∧
      (0xFFFF#16).toNat / 2 ^ 12 = 0b1111 := by decide

theorem witness_StepRunsDecoded_one_word :
    silent (fetching 0x1FFE [0x0E5A]) = true ∧ undisturbed (fetching 0x1FFE [0x0E5A]) = true ∧
      requested (fetching 0x1FFE [0x0E5A]) = none ∧ (fetching 0x1FFE [0x0E5A]).asleep = false ∧
      fetchable (fetching 0x1FFE [0x0E5A]) 0x1FFE = true ∧
      decodesTo ([(fetching 0x1FFE [0x0E5A]).pmByte 0x1FFE, (fetching 0x1FFE [0x0E5A]).pmByte 0x1FFF], .movlw 0x5A)
        = true := by decide

theorem witness_StepRunsDecoded_two_words :
    silent (fetching 0x1FFC [0xEF1A, 0xF009]) = true ∧ fetchable (fetching 0x1FFC [0xEF1A, 0xF009]) 0x1FFC = true ∧
      fetchable (fetching 0x1FFC [0xEF1A, 0xF009]) 0x1FFE = true ∧
      decodesTo ([(fetching 0x1FFC [0xEF1A, 0xF009]).pmByte 0x1FFC, (fetching 0x1FFC [0xEF1A, 0xF009]).pmByte 0x1FFD,
        (fetching 0x1FFC [0xEF1A, 0xF009]).pmByte 0x1FFE, (fetching 0x1FFC [0xEF1A, 0xF009]).pmByte 0x1FFF],
        .goto 0x0091A) = true := by decide

/-- I8 to I10: a request while interrupts are disabled, a low one while only the high level is enabled; and a latched
request whose enable bit the instruction after SLEEP cleared. -/
theorem witness_StepRunsDecoded_masked_request :
    [({ fetching 0x100 [0x0E5A] with inputs := [⟨true, true, false, none, [(0xF80, 0x12)]⟩] } : State),
      { fetching 0x100 [0x0E5A] with inputs := [⟨false, true, false, none, []⟩], gieh := true, ipen := true },
      { fetching 0x100 [0x0E5A] with heldHigh := true }].all (fun s =>
        undisturbed s && requested s == none && fetchable s s.pc && !silent s &&
          decodesTo ([s.pmByte s.pc, s.pmByte (s.pc + 1)], .movlw 0x5A)) = true := by decide

theorem witness_FetchStops_first_word :
    silent (fetching 0x2000 []) = true ∧ (fetching 0x2000 []).asleep = false ∧
      (fetching 0x2000 []).cfg.edges = .stop ∧ fetchable (fetching 0x2000 []) 0x2000 = false := by decide

theorem witness_FetchStops_second_word :
    fetchable (fetching 0x1FFE [0xEF00]) 0x1FFE = true ∧ isAssigned (wordAt (fetching 0x1FFE [0xEF00]) 0x1FFE) = true ∧
      isTwoWordFirst (wordAt (fetching 0x1FFE [0xEF00]) 0x1FFE) = true ∧
      fetchable (fetching 0x1FFE [0xEF00]) 0x2000 = false := by decide

theorem witness_FetchStops_malformed :
    (wordAt (fetching 0x1FFC [0xEF00, 0xEFFF]) 0x1FFE).toNat / 2 ^ 12 ≠ 0b1111 ∧
      (wordAt (fetching 0x1FFC [0xEE00, 0xF100]) 0x1FFC).toNat / 2 ^ 8 = 0xEE ∧
      isAssigned (wordAt (fetching 0x1FFC [0xEE00, 0xF100]) 0x1FFC) = true ∧
      isTwoWordFirst (wordAt (fetching 0x1FFC [0xEE00, 0xF100]) 0x1FFC) = true ∧
      fetchable (fetching 0x1FFC [0xEE00, 0xF100]) 0x1FFE = true ∧
      (wordAt (fetching 0x1FFC [0xEE00, 0xF100]) 0x1FFE).toNat / 2 ^ 8 ≠ 0xF0 := by decide

/-- A state that meets the invariant with data memory at both ends of its range, and a step from it that stores. -/
theorem witness_StepKeepsInv :
    Inv { fetching 0x0 [0x6EFF] with bsr := 0, w := 0x33, fsr0 := 0x0FF } ∧
      ∃ s', step { fetching 0x0 [0x6EEF] with w := 0x33, fsr0 := 0x0FF } = .next s' ∧ s'.dm = [(0xFF, 0x33)] :=
  ⟨⟨rfl, rfl, rfl, by decide, rfl, rfl⟩, _, rfl, by decide⟩

theorem witness_ProgramMemoryImmutable : ∃ s', step State.reset = .next s' := ⟨_, rfl⟩

/-- An addition with WREG as its destination, one stored in data memory, and one whose destination is STATUS. -/
theorem witness_FlagsOutsideTheStatusSetStay :
    (start 0 0 (fl 0)).cfg.edges = .stop ∧ restoresStatus (.andwf 0x20 .f .access) = false ∧
      destAddr (.andwf 0x20 .f .access) (start 0 0 (fl 0)) = some 0x020 ∧
      placeOf Config.default 0x020 ≠ .core .status ∧
      after (.andwf 0x20 .f .access) (start 0 0 (fl 0)) (fun _ => true) = true ∧
      statusSet .corrected (.andwf 0xD8 .f .access) ≠ Flags.clear ∧
      (statusSet .corrected (.andwf 0x20 .f .access)).c = false ∧
      (statusSet .corrected (.andwf 0x20 .f .access)).dc = false ∧
      (statusSet .corrected (.clrf 0x20 .access)).n = false ∧ (statusSet .corrected .daw).z = false ∧
      (statusSet .corrected .daw).ov = false := by decide

theorem witness_PcAdvances :
    (Instr.movff 0x020 0x021).wellFormed = true ∧ assignsPc (.movff 0x020 0x021) = false ∧
      destAddr (.movff 0x020 0x021) (start 0 0 (fl 0)) = some 0x021 ∧ placeOf Config.default 0x021 ≠ .core .pcl ∧
      after (.movff 0x020 0x021) (start 0 0 (fl 0)) (fun _ => true) = true := by decide

/-- The destination is the last implemented byte; the addresses beside it are outside the stored one. -/
theorem witness_DataMemoryFrame :
    destAddr (.movwf 0xFF .banked) (start 0x12 0 (fl 0)) = some 0x0FF ∧
      after (.movwf 0xFF .banked) (start 0x12 0 (fl 0)) (fun _ => true) = true := by decide

theorem witness_LwrtAndPowerBitsFrame :
    after (.clrf 0xD0 .access) ({ start 0 0 (fl 0) with lwrt := true }) (fun _ => true) = true ∧
      (Instr.clrf 0xD0 .access ≠ .clrwdt) ∧ (Instr.clrf 0xD0 .access ≠ .sleep) := by decide

theorem witness_ShadowsChangeOnlyByFastCall :
    after (.call 0 false) (start 0 0 (fl 0)) (fun _ => true) = true ∧ (Instr.call 0 false ≠ .reset) ∧
      (∀ k, Instr.call 0 false ≠ .call k true) :=
  ⟨by decide, by decide, fun _ h => by injection h; contradiction⟩

/-- Both sides of the Access Bank's split. -/
theorem witness_EffectiveAddress :
    (0x7F#8).toNat < State.reset.cfg.accessSplit.toNat ∧ State.reset.cfg.accessSplit.toNat ≤ (0x80#8).toNat := by decide

/-- Targets at the borders of R107's: an INDF, the bytes beside the twelve addresses, another FSR's low byte; the last
implemented byte; and an address beside the virtual registers stands for itself. -/
theorem witness_IndirectForms :
    Config.default.sfrMap = r60Map ∧
      [0x0FF#12, 0x100, 0xFEF, 0xFEA, 0xFE9, 0xFE7, 0xFE2, 0xFDF, 0xFDA].all (fun t => !otherIndirect.contains t) = true ∧
      (0xFE1#12 ≠ 0xFE9 ∧ 0xFE1#12 ≠ 0xFEA ∧ 0xFE1#12 ∉ otherIndirect) ∧
      ((0x0FF : Nat) : Int) = ((0x100#12).toNat + (0xFF#8).toInt) % 4096 ∧ ¬(0xFDB ≤ (0xFDA#12).toNat) ∧
      ¬((0xFF0#12).toNat ≤ 0xFEF) := by decide

/-- The default configuration keeps RAM and the registers apart: `SpecMap` of the statements on reads and writes. -/
theorem witness_SpecMap : SpecMap Config.default := by
  refine ⟨rfl, fun t ht => Option.eq_none_iff_forall_ne_some.2 fun n hn => ?_⟩
  have hlt : t.toNat < 0xFD0 := by
    simp only [gprOk, inRanges, Config.default, List.any_cons, List.any_nil, Bool.or_false, Bool.and_eq_true,
      decide_eq_true_eq] at ht
    omega
  unfold regAt at hn
  obtain ⟨row, hrow, -⟩ := Option.map_eq_some_iff.1 hn
  have ht := List.find?_some hrow
  have hmem := List.mem_of_find?_eq_some hrow
  have hall : r60Map.all (fun row => decide (0xFD0 ≤ row.addr.toNat)) = true := by decide
  have := List.all_eq_true.1 hall row hmem
  simp only [beq_iff_eq, decide_eq_true_eq] at ht this
  rw [ht] at this
  omega

/-- INDF0 to INDF0; INDF0 to POSTINC0; POSTINC0 and PREINC0 to FSR0L and FSR0H. -/
theorem witness_IndirectTargets :
    (resolvable (ea 0xEF .access { State.reset with fsr0 := 0xFEF }) { State.reset with fsr0 := 0xFEF } = true ∧
      fTarget 0xEF .access { State.reset with fsr0 := 0xFEF } = 0xFEF) ∧
      targetOf 0xFEF { State.reset with fsr0 := 0xFEE } ∈ otherIndirect ∧
      targetOf 0xFEF { State.reset with fsr0 := 0xFDB } ∈ otherIndirect ∧
      targetOf 0xFEE { State.reset with fsr0 := 0xFE9 } = 0xFE9 ∧
      targetOf 0xFEC { State.reset with fsr0 := 0xFE9 } = 0xFEA ∧
      targetOf 0xFDE { State.reset with fsr2 := 0xFDA } = 0xFDA := by decide

/-- The last implemented RAM byte and the first address outside, for reads and for writes. -/
theorem witness_MemReadTable_MemWriteTable :
    gprOk Config.default 0x0FF = true ∧ unmapped Config.default 0x100 = true ∧
      unmapped Config.default 0xFD1 = true ∧ unmapped Config.default 0xFF1 = true ∧ Config.default.pclAccess = .asR42 ∧ Config.default.periph = .refuse :=
  by decide

/-- Both values of `periph` occur with the same map. -/
theorem witness_MemReadTable_ports : SpecMap { Config.default with periph := .ports } :=
  ⟨witness_SpecMap.table, witness_SpecMap.apart⟩

theorem witness_StatusAsDestination : Config.default.accessSplit.toNat ≤ 0xD8 := by decide

/-- An empty stack, and the first entry. -/
theorem witness_StackRegistersAsDestinations : State.reset.sp = 0 ∧ called.sp ≠ 0 := by decide

theorem witness_ProgramCounterLow :
    Config.default.accessSplit.toNat ≤ 0xF9 ∧ after (.call 0 true) (start 0 0 (fl 0)) (fun _ => true) = true ∧
      (∃ s', enterInterrupt .high (start 0 0 (fl 0)) = .next s') :=
  ⟨by decide, by decide, _, rfl⟩

theorem witness_GprReadAfterWrite :
    Memory.wf .data (start 0 0x5A (fl 0)).dm = true ∧ gprOk (start 0 0x5A (fl 0)).cfg 0x000 = true ∧
      ∃ s', memWrite 0x000 0x12 true (start 0 0x5A (fl 0)) = .next s' :=
  ⟨by decide, by decide, _, rfl⟩

/-- Operands that can be used: the first and last RAM byte, a core register, POSTINC0, an FSR as its own low byte
through INDF0; for `d = 1` and `d = 0`. These meet `canUse`, `canRead` and `canWrite` of Additions, Subtractions, Negation,
LogicalResults, Rotates, Products, BitWrites and WriteOnlyOperations. -/
theorem witness_canUse :
    ([(0x00#8, RamSel.access), (0xFF#8, .banked), (0xD8#8, .access), (0xEE#8, .access), (0xE9#8, .access)].all fun p =>
      [Dest.w, .f].all fun d => canUse p.1 d p.2 (start 0x12 0 (fl 0)) && canWrite p.1 p.2 (start 0x12 0 (fl 0)) &&
        canRead p.1 p.2 (start 0x12 0 (fl 0))) = true := by decide

/-- The two values of P_FLAGS_VARIANT, and one operand of RAM whose target is read back. -/
theorem witness_flags_variants :
    canUse 0x20 .f .access (configured (start 0 0 (fl 0)) { Config.default with flagsVariant := .sourceLiteral })
        = true ∧
      Config.default.flagsVariant = .corrected ∧
      gprOk Config.default (fTarget 0x20 .access (start 0 0 (fl 0))) = true ∧
      Memory.wf .data (start 0 0x5A (fl 0)).dm = true := by decide

/-- A skip that sees a one-word, a two-word and an unassigned word. -/
theorem witness_SkipRule :
    fetchable (fetching 0x1FFA [0x6620, 0x2A21]) 0x1FFC = true ∧
      isAssigned (wordAt (fetching 0x1FFA [0x6620, 0x2A21]) 0x1FFC) = true ∧
      isTwoWordFirst (wordAt (fetching 0x1FFA [0x6620, 0x2A21]) 0x1FFC) = false ∧
      isTwoWordFirst (wordAt (fetching 0x1FFA [0x6620, 0xEF20]) 0x1FFC) = true ∧
      isAssigned (wordAt (fetching 0x1FFA [0x6620, 0xEF20]) 0x1FFC) = true ∧
      isAssigned (wordAt (fetching 0x1FFA [0x6620, 0x0001]) 0x1FFC) = false ∧
      canRead 0x20 .access (fetching 0x1FFA [0x6620, 0x0001]) = true ∧
      fValue 0x20 .access (fetching 0x1FFA [0x6620, 0x0001]) = 0 := by decide

/-- A skip that is taken over a two-word instruction, and a test that does not skip before an unassigned word. -/
theorem witness_TestSkips_CountingSkips :
    canRead 0x20 .access (fetching 0x1FFA [0x6620, 0xEF20]) = true ∧
      canUse 0x20 .f .access (fetching 0x1FFA [0x2E20, 0xEF20]) = true ∧
      canUse 0xF9 .f .access (fetching 0x1FFA [0x2EF9, 0xEF20]) = true ∧
      skippable (fetching 0x1FFA [0x2E20, 0xEF20]) = true ∧
      skippable (fetching 0x1FFA [0x2E20, 0x0001]) = false ∧
      decide (((fValue 0x20 .access (fetching 0x1FFA [0x2E20, 0x0001])).toNat + 255) % 256 = 0) = false := by decide

/-- A copy to RAM, and a destination that is refused (PCL). -/
theorem witness_MoveFileToFile :
    Config.default.sfrMap = r60Map ∧ resolvable 0xFEE (start 0 0 (fl 0)) = true ∧ readable Config.default (targetOf 0xFEE (start 0 0 (fl 0))) = true ∧
      (let s1 := afterRead (targetOf 0xFEE (start 0 0 (fl 0))) false (afterResolve 0xFEE (start 0 0 (fl 0)))
       resolvable 0x0FF s1 = true ∧ writable (start 0 0 (fl 0)) (targetOf 0x0FF s1) = true ∧
         gprOk Config.default (targetOf 0x0FF s1) = true ∧ resolvable 0xFF9 s1 = true ∧ targetOf 0xFF9 s1 = 0xFF9) := by
  decide

theorem witness_FileRegisterFrame :
    after (.addwf 0x20 .f .access) (start 1 2 (fl 0)) (fun _ => true) = true ∧
      after (.negf 0x20 .access) (start 1 2 (fl 0)) (fun _ => true) = true ∧
      after (.setf 0x20 .access) (start 1 2 (fl 0)) (fun _ => true) = true ∧
      after (.movff 0x020 0x021) (start 1 2 (fl 0)) (fun _ => true) = true := by decide

/-- R353: an indirect target that is refused, an address outside, PCL in the cautious configuration, TOSL at SP = 0; the
same for MOVFF's source and destination. -/
theorem witness_UnusableOperandsStop :
    (∃ r, resolve (ea 0xEF .access { State.reset with fsr0 := 0xFEE }) { State.reset with fsr0 := 0xFEE } = .refused r) ∧
      resolvable (ea 0x80 .access State.reset) State.reset = true ∧
      unmapped Config.default (fTarget 0x80 .access State.reset) = true ∧ Config.default.periph = .refuse ∧
      fTarget 0xF9 .access (configured State.reset { Config.default with pclAccess := .refuse }) = 0xFF9 ∧
      fTarget 0xFD .access State.reset = 0xFFD ∧ State.reset.sp = 0 ∧
      destAddr (.incfsz 0xFD .f .access) State.reset ≠ none ∧ assignsPc (.incfsz 0xFD .f .access) = true ∧
      skippable State.reset = true ∧ readable Config.default (targetOf 0x020 State.reset) = true ∧
      resolvable 0xF80 State.reset = true ∧ unmapped Config.default (targetOf 0xF80 State.reset) = true :=
  ⟨⟨_, rfl⟩, by decide⟩

theorem witness_JumpsNopsLoadsAndPower :
    Config.default.unassigned = .refuse ∧ ({ Config.default with unassigned := .nop } : Config).unassigned = .nop := by
  decide

/-- SP at 29, 30 without and with P_STVREN, and 31. -/
theorem witness_PushRule :
    Config.default.edges = .stop ∧ canPush { start 0 0 (fl 0) with sp := 29 } = true ∧
      canPush { start 0 0 (fl 0) with sp := 30 } = true ∧
      canPush { start 0 0 (fl 0) with sp := 30, cfg := { Config.default with stvren := true } } = false ∧
      canPush { start 0 0 (fl 0) with sp := 31 } = false := by decide

/-- SP at 1 and at 0. -/
theorem witness_PopRule_ReturnsAndPop :
    (1#5 ≠ 0) ∧ called.sp ≠ 0 ∧ State.reset.sp = 0 ∧ State.reset.cfg.edges = .stop := by decide

theorem witness_CallsAndPush : canPush (start 0 0 (fl 0)) = true := by decide

/-- SP = 31 is full and SP = 30 fills, for every push and for interrupt entry (I12); a smaller stack too. -/
theorem witness_StackFaults :
    full { start 0 0 (fl 0) with sp := 31 } = true ∧ full { start 0 0 (fl 0) with sp := 30 } = false ∧
      fills { start 0 0 (fl 0) with sp := 30 } = true ∧ fills { start 0 0 (fl 0) with sp := 29 } = false ∧
      full { start 0 0 (fl 0) with sp := 8, cfg := { Config.default with stackDepth := 8 } } = true ∧
      ({ Config.default with stvren := true } : Config).edges = .stop := by decide

theorem witness_DecimalAdjust :
    Config.default.dawVariant = .propagate ∧ ({ Config.default with dawVariant := .isolated } : Config).dawVariant = .isolated
    := by decide

/-- 61 + 99: the case the statement sets apart; and 38 + 45 of program P5. -/
theorem witness_BcdAdditionAdjusts :
    (0x61#8).toNat = 16 * (61 / 10) + 61 % 10 ∧ (0x99#8).toNat = 16 * (99 / 10) + 99 % 10 ∧
      (0x38#8).toNat = 16 * (38 / 10) + 38 % 10 ∧ (0x45#8).toNat = 16 * (45 / 10) + 45 % 10 := by decide

/-- The pointer inside P_PM_IMPL, just before it wraps, and just before its increment leaves the lower half. -/
theorem witness_TableReads :
    (0x001#22).toNat = ((0x000#22).toNat + 1) % 2 ^ 22 ∧ ((0x3FFFFF#22).toNat : Int) = ((0x000#22 : BitVec 22).toNat - 1) % 2 ^ 22 ∧
      (0x000#22).toNat < 2 ^ 21 ∧ pmOk Config.default (BitVec.ofNat 21 (0x000#22).toNat) = true ∧
      pmOk Config.default (BitVec.ofNat 21 (0x1FFF#22).toNat) = true ∧
      (0x000#22).toNat = ((0x3FFFFF#22).toNat + 1) % 2 ^ 22 := by decide

theorem witness_TableWrites : (table 0x200).lwrt = false ∧ (table 0x1FFFFF).tblptr.toNat < 2 ^ 21 := by decide

/-- Every stop of the table operations occurs, at the borders of its range. -/
theorem witness_TableStops :
    2 ^ 21 ≤ (table 0x200000).tblptr.toNat ∧ (table 0x1FFFFF).tblptr.toNat < 2 ^ 21 ∧
      pmOk Config.default (BitVec.ofNat 21 (table 0x2000).tblptr.toNat) = false ∧
      ({ table 0x200 with lwrt := true } : State).lwrt = true ∧
      2 ^ 21 ≤ ((table 0x1FFFFF).tblptr + 1).toNat ∧ ((table 0x1FFF).tblptr + 1).toNat < 2 ^ 21 ∧
      pmOk Config.default (BitVec.ofNat 21 ((table 0x1FFF).tblptr + 1).toNat) = false := by decide

/-- One request at a boundary, interrupts enabled; and one latched by a wake-up, with no input left. -/
theorem witness_InterruptRecognition :
    (Input.mk true false false none [(0xF80, 1)]).reset = none ∧ State.reset.asleep = false ∧
      irqLevel true false { State.reset with gieh := true } = some .high ∧
      irqLevel false true { State.reset with gieh := true } = some .high ∧
      irqLevel false true { State.reset with gieh := true, giel := true, ipen := true } = some .low ∧
      irqLevel true true { State.reset with gieh := true, giel := true, ipen := true } = some .high ∧
      (let s := { State.reset with gieh := true, heldHigh := true }
       s.inputs = [] ∧ irqLevel s.heldHigh s.heldLow s = some .high) := by decide

theorem witness_InterruptEntry : canPush State.reset = true ∧ State.reset.ipen = false := by decide

theorem witness_EntryThenRetfieRestores :
    (start 0 0 (fl 0)).pc.getLsbD 0 = false ∧ (start 0 0 (fl 0)).asleep = false ∧ canPush (start 0 0 (fl 0)) = true ∧
      irqLevel true false { start 0 0 (fl 0) with gieh := true } = some .high ∧
      irqLevel false true { start 0 0 (fl 0) with gieh := true, giel := true, ipen := true } = some .low := by decide

theorem witness_FastCallReturnRestores : (start 0 0 (fl 0)).pc.getLsbD 0 = false ∧ canPush (start 0 0 (fl 0)) = true := by
  decide

theorem witness_NestingIsTwoDeep :
    irqLevel false true { State.reset with gieh := true, giel := true, ipen := true } = some .low ∧
      (∃ s1 s2, enterInterrupt .low { State.reset with gieh := true, giel := true, ipen := true } = .next s1 ∧
        enterInterrupt .high s1 = .next s2) :=
  ⟨by decide, _, _, rfl, rfl⟩

/-- A sleeping core with no input, a silent one, a watchdog time-out, a request that may not be taken, one that may. -/
theorem witness_StandbyAndWakeUp :
    ({ State.reset with asleep := true } : State).asleep = true ∧ State.reset.heldHigh = false ∧
      State.reset.heldLow = false ∧ State.reset.inputs = [] ∧
      irqLevel true false { State.reset with asleep := true } = none ∧
      irqLevel true false { State.reset with asleep := true, gieh := true } ≠ none := by decide

theorem witness_OutsideResets :
    (Input.mk false false true none []).wdtTimeout = true ∧ (Input.mk false false true none []).reset = none ∧
      State.reset.asleep = false ∧ (Input.mk false false false (some .brownOut) []).reset = some .brownOut ∧
      (Input.mk true true true (some .masterClear) []).reset = some .masterClear := by decide

end Sys2Proof.Tests
end

section
/-! SUPPORT. Slices, bits and concatenations of bit vectors as numbers. -/

namespace Sys2Proof.Machine

theorem bit_toNat (c : Bool) : (bit c).toNat = c.toNat := BitVec.toNat_ofBool c

theorem append_toNat {m n : Nat} (x : BitVec m) (y : BitVec n) : (x ++ y).toNat = 2 ^ n * x.toNat + y.toNat := by
  rw [BitVec.toNat_append, ← Nat.shiftLeft_add_eq_or_of_lt y.isLt, Nat.shiftLeft_eq, Nat.mul_comm]

theorem slice_toNat {w : Nat} (x : BitVec w) (k n : Nat) : (x.extractLsb' k n).toNat = x.toNat / 2 ^ k % 2 ^ n := by
  rw [BitVec.extractLsb'_toNat, Nat.shiftRight_eq_div_pow]

theorem low_toNat {w : Nat} (x : BitVec w) (n : Nat) : (x.extractLsb' 0 n).toNat = x.toNat % 2 ^ n := by
  rw [slice_toNat, pow_zero, Nat.div_one]

theorem slice_beq {w n : Nat} (x : BitVec w) (k : Nat) (v : BitVec n) :
    (x.extractLsb' k n == v) = decide (x.toNat / 2 ^ k % 2 ^ n = v.toNat) := by
  rw [Bool.eq_iff_iff, beq_iff_eq, decide_eq_true_eq, ← BitVec.toNat_inj, slice_toNat]

theorem getLsbD_eq_decide {w : Nat} (x : BitVec w) (k : Nat) : x.getLsbD k = decide (x.toNat / 2 ^ k % 2 = 1) := by
  rw [BitVec.getLsbD, Nat.testBit_eq_decide_div_mod_eq]

/-- The highest bit. -/
theorem getLsbD_top {n : Nat} (x : BitVec (n + 1)) : x.getLsbD n = decide (2 ^ n ≤ x.toNat) := by
  have h := BitVec.msb_eq_decide x
  rwa [BitVec.msb_eq_getLsbD_last] at h

/-- A mask of the low `k` bits is a remainder. -/
theorem and_low_toNat {n : Nat} (x m : BitVec n) (k : Nat) (hm : m.toNat = 2 ^ k - 1) :
    (x &&& m).toNat = x.toNat % 2 ^ k := by
  rw [BitVec.toNat_and, hm, Nat.and_two_pow_sub_one_eq_mod]

end Sys2Proof.Machine
end

section
/-! SUPPORT. What a completed instruction can have done, said once for all instructions (`Ran`): from one case split
over the 76 forms the invariant and the frames follow. -/

namespace Sys2Proof.Machine

/-! Flags kept -/

/-- `fl'` has the flags of `fl` outside `set` (10_state.md R32). -/
structure FlagsKept (set fl fl' : Flags) : Prop where
  c : set.c = false → fl'.c = fl.c
  dc : set.dc = false → fl'.dc = fl.dc
  z : set.z = false → fl'.z = fl.z
  ov : set.ov = false → fl'.ov = fl.ov
  n : set.n = false → fl'.n = fl.n

theorem FlagsKept.refl (set fl : Flags) : FlagsKept set fl fl :=
  ⟨fun _ => rfl, fun _ => rfl, fun _ => rfl, fun _ => rfl, fun _ => rfl⟩

theorem FlagsKept.of_eq {set fl fl' : Flags} (h : fl' = fl) : FlagsKept set fl fl' := h ▸ .refl set fl

theorem FlagsKept.all (fl fl' : Flags) : FlagsKept ⟨true, true, true, true, true⟩ fl fl' :=
  ⟨nofun, nofun, nofun, nofun, nofun⟩

theorem FlagsKept.setNZ (v : Byte) (fl : Flags) : FlagsKept ⟨true, false, true, false, false⟩ fl (setNZ v fl) :=
  ⟨fun _ => rfl, fun _ => rfl, nofun, fun _ => rfl, nofun⟩

theorem FlagsKept.setNZC (v : Byte) (c : Bool) (fl : Flags) :
    FlagsKept ⟨true, false, true, false, true⟩ fl { Machine.setNZ v fl with c := c } :=
  ⟨nofun, fun _ => rfl, nofun, fun _ => rfl, nofun⟩

/-! The instruction's own effect -/

/-- The two states agree on the memories, the parameters and LWRT. -/
structure SameStorage (s b : State) : Prop where
  dm : b.dm = s.dm
  pm : b.pm = s.pm
  periphIn : b.periphIn = s.periphIn
  periphOut : b.periphOut = s.periphOut
  cfg : b.cfg = s.cfg
  lwrt : b.lwrt = s.lwrt

/-- What the instruction `i` does to the state apart from its data write and apart from a reset: storage stays; the
flags, the shadows, TO and PD and the pc change as the instruction's rule allows. -/
structure Quiet (i : Instr) (s b : State) : Prop extends SameStorage s b where
  flags : restoresStatus i = false → FlagsKept (statusSet s.cfg.flagsVariant i) s.flags b.flags
  shadows : (∀ k, i ≠ .call k true) → b.ws = s.ws ∧ b.statuss = s.statuss ∧ b.bsrs = s.bsrs
  power : i ≠ .clrwdt → i ≠ .sleep → b.toBit = s.toBit ∧ b.pdBit = s.pdBit
  pc_even : s.pc.getLsbD 0 = false → b.pc.getLsbD 0 = false
  pc_advance : assignsPc i = false → i.wellFormed = true → b.pc = s.pc + BitVec.ofNat 21 (2 * instrWords i)

/-- The two states agree on storage, the shadows, TO and PD. -/
structure Steady (s b : State) : Prop extends SameStorage s b where
  ws : b.ws = s.ws
  statuss : b.statuss = s.statuss
  bsrs : b.bsrs = s.bsrs
  toBit : b.toBit = s.toBit
  pdBit : b.pdBit = s.pdBit

theorem Steady.refl (s : State) : Steady s s := ⟨⟨rfl, rfl, rfl, rfl, rfl, rfl⟩, rfl, rfl, rfl, rfl, rfl⟩

theorem ReadFrame.steady {s b : State} (h : ReadFrame s b) : Steady s b := by
  rw [h.eq]
  exact ⟨⟨rfl, rfl, rfl, rfl, rfl, rfl⟩, rfl, rfl, rfl, rfl, rfl⟩

theorem ReadFrame.flags {s b : State} (h : ReadFrame s b) : b.flags = s.flags := by rw [h.eq]

theorem ReadFrame.pc {s b : State} (h : ReadFrame s b) : b.pc = s.pc := by rw [h.eq]

theorem Steady.setPc {s b : State} (h : Steady s b) (p : ProgAddr) : Steady s (b.setPc p) := { h with }

theorem Steady.advance {s b : State} (h : Steady s b) : Steady s b.advance := h.setPc _

theorem Steady.setFlags {s b : State} (h : Steady s b) (fl : Flags) : Steady s (b.setFlags fl) := { h with }

theorem Steady.setW {s b : State} (h : Steady s b) (v : Byte) : Steady s (b.setW v) := { h with }

theorem Steady.setBsr {s b : State} (h : Steady s b) (v : BitVec 4) : Steady s (b.setBsr v) := { h with }

theorem Steady.setProd {s b : State} (h : Steady s b) (v : BitVec 16) : Steady s (b.setProd v) := { h with }

theorem Steady.setTablat {s b : State} (h : Steady s b) (v : Byte) : Steady s (b.setTablat v) := { h with }

theorem Steady.setTblptr {s b : State} (h : Steady s b) (v : BitVec 22) : Steady s (b.setTblptr v) := { h with }

theorem Steady.setFsr {s b : State} (h : Steady s b) (j : FsrIdx) (v : BitVec 12) : Steady s (b.setFsr j v) := by
  cases j <;> exact { h with }

/-! The pc stays even -/

theorem pc_even_iff {p : ProgAddr} : p.getLsbD 0 = false ↔ p.toNat % 2 = 0 := by
  rw [getLsbD_eq_decide, decide_eq_false_iff_not, pow_zero, Nat.div_one]
  omega

theorem pc_even_add {p q : ProgAddr} (hp : p.getLsbD 0 = false) (hq : q.getLsbD 0 = false) :
    (p + q).getLsbD 0 = false := by
  rw [pc_even_iff] at *
  rw [BitVec.toNat_add]
  omega

theorem pc_even_append_zero (x : BitVec 20) : (x ++ 0#1 : ProgAddr).getLsbD 0 = false := by
  rw [BitVec.getLsbD_append]
  rfl

theorem pc_even_two_mul (x : ProgAddr) : (2 * x).getLsbD 0 = false := by
  rw [pc_even_iff, BitVec.toNat_mul, show (2 : ProgAddr).toNat = 2 from rfl]
  omega

theorem relTarget8_even {p : ProgAddr} (h : p.getLsbD 0 = false) (n : BitVec 8) : (relTarget8 p n).getLsbD 0 = false :=
  pc_even_add (pc_even_add h rfl) (pc_even_two_mul _)

theorem relTarget11_even {p : ProgAddr} (h : p.getLsbD 0 = false) (n : BitVec 11) :
    (relTarget11 p n).getLsbD 0 = false :=
  pc_even_add (pc_even_add h rfl) (pc_even_two_mul _)

theorem skipTarget_even {s : State} (h : s.pc.getLsbD 0 = false) : (skipTarget s).getLsbD 0 = false := by
  unfold skipTarget
  split <;> exact pc_even_add h rfl

theorem popValue_even (s : State) : s.popValue.getLsbD 0 = false := pc_even_append_zero _

theorem vector_even (ipen : Bool) (level : Level) : (vector ipen level).getLsbD 0 = false := by
  unfold vector
  split <;> rfl

theorem pclTarget_even (s : State) (v : Byte) : (pclTarget s v).getLsbD 0 = false := by
  rw [pclTarget, BitVec.getLsbD_append]
  rfl

theorem Quiet.of_steady {i : Instr} {s b : State} (h : Steady s b)
    (hf : FlagsKept (statusSet s.cfg.flagsVariant i) s.flags b.flags)
    (he : s.pc.getLsbD 0 = false → b.pc.getLsbD 0 = false)
    (ha : assignsPc i = false → i.wellFormed = true → b.pc = s.pc + BitVec.ofNat 21 (2 * instrWords i)) :
    Quiet i s b :=
  { h with
    flags := fun _ => hf
    shadows := fun _ => ⟨h.ws, h.statuss, h.bsrs⟩
    power := fun _ _ => ⟨h.toBit, h.pdBit⟩
    pc_even := he
    pc_advance := ha }

/-- The pc of an instruction of `n` words that goes on to the next one. -/
theorem Quiet.of_advance {i : Instr} {s b : State} (n : Nat) (h : Steady s b)
    (hf : FlagsKept (statusSet s.cfg.flagsVariant i) s.flags b.flags) (hn : instrWords i = n)
    (hpc : b.pc = s.pc + BitVec.ofNat 21 (2 * n)) : Quiet i s b := by
  refine .of_steady h hf (fun he => ?_) fun _ _ => hn ▸ hpc
  rw [hpc]
  exact pc_even_add he (pc_even_iff.2 (by simp))

/-- The pc of an instruction that assigns it. -/
theorem Quiet.of_jump {i : Instr} {s b : State} (h : Steady s b) (hf : b.flags = s.flags) (ha : assignsPc i = true)
    (he : s.pc.getLsbD 0 = false → b.pc.getLsbD 0 = false) : Quiet i s b :=
  .of_steady h (.of_eq hf) he fun h0 => absurd (ha.symm.trans h0) nofun

/-! The return stack -/

/-- `b` differs from `s` at most in the return stack, its pointer and flags, and the counter of free values. -/
structure StackFrame (s b : State) : Prop where
  eq : b = { s with sp := b.sp, stack := b.stack, stkful := b.stkful, stkunf := b.stkunf, freeCtr := b.freeCtr }

theorem StackFrame.steady {s b : State} (h : StackFrame s b) : Steady s b := by
  rw [h.eq]
  exact ⟨⟨rfl, rfl, rfl, rfl, rfl, rfl⟩, rfl, rfl, rfl, rfl, rfl⟩

theorem StackFrame.flags {s b : State} (h : StackFrame s b) : b.flags = s.flags := by rw [h.eq]

theorem StackFrame.latches {s b : State} (h : StackFrame s b) : b.pclath = s.pclath ∧ b.pclatu = s.pclatu := by
  rw [h.eq]
  exact ⟨rfl, rfl⟩

theorem StackFrame.setEntry {s b : State} (h : StackFrame s b) (i : BitVec 5) (v : BitVec 21) :
    StackFrame s (b.setEntry i v) := by
  rw [State.setEntry_eq, h.eq]
  exact ⟨rfl⟩

theorem StackFrame.setStkful {s b : State} (h : StackFrame s b) (v : Bool) : StackFrame s (b.setStkful v) := by
  rw [h.eq]
  exact ⟨rfl⟩

theorem StackFrame.pushed (s : State) (v : BitVec 21) : StackFrame s ((s.setSp (s.sp + 1)).setEntry (s.sp + 1) v) :=
  .setEntry ⟨rfl⟩ _ _

theorem pushOnFull_frame (v : BitVec 21) (s : State) : StackFrame s (pushOnFull v s) := by
  have h : StackFrame s (if freeBit s.freeCtr 0 then s.setEntry s.sp v else s) := by
    split
    · exact .setEntry ⟨rfl⟩ _ _
    · exact ⟨rfl⟩
  unfold pushOnFull
  rw [h.eq]
  exact ⟨rfl⟩

/-- A push that answers next goes on from a changed stack, or has reset the device. -/
theorem pushThen_frame {v : BitVec 21} {s s' : State} {k : State → Res State} (h : pushThen v s k = .next s') :
    (∃ b, StackFrame s b ∧ k b = .next s') ∨
      (s.cfg.edges = .hardware ∧ ∃ b, StackFrame s b ∧ s' = stackFullReset b) := by
  rcases pushThen_next h with ⟨-, hk⟩ | ⟨-, -, hk⟩ | ⟨-, -, he, hr⟩ | ⟨-, -, -, hk⟩ | ⟨-, -, he, hr⟩
  · exact .inl ⟨_, .pushed s v, hk⟩
  · exact .inl ⟨_, (StackFrame.pushed s v).setStkful true, hk⟩
  · exact .inr ⟨he, _, (StackFrame.pushed s v).setStkful true, hr⟩
  · exact .inl ⟨_, pushOnFull_frame v s, hk⟩
  · exact .inr ⟨he, _, pushOnFull_frame v s, hr⟩

/-- A pop that answers next goes on with an even value from a changed stack, or has reset the device. -/
theorem popThen_frame {s s' : State} {k : ProgAddr → State → Res State} (h : popThen s k = .next s') :
    (∃ p b, p.getLsbD 0 = false ∧ StackFrame s b ∧ k p b = .next s') ∨
      (s.cfg.edges = .hardware ∧ s' = stackUnderflowReset s) := by
  rcases popThen_next h with ⟨-, hk⟩ | ⟨-, -, -, hk⟩ | ⟨-, -, he, hr⟩
  · exact .inl ⟨_, _, popValue_even s, ⟨rfl⟩, hk⟩
  · exact .inl ⟨0, _, rfl, ⟨rfl⟩, hk⟩
  · exact .inr ⟨he, hr⟩

/-! What a completed instruction has done -/

/-- The device was reset: storage stays, the pc is 0. -/
structure Restarted (s s' : State) : Prop extends SameStorage s s' where
  pc : s'.pc = 0

theorem resetColumn_restarted (s : State) : Restarted s (resetColumn s) := ⟨⟨rfl, rfl, rfl, rfl, rfl, rfl⟩, rfl⟩

/-- Everything an instruction can have done when it answers next. -/
inductive Ran (i : Instr) (s : State) : State → Prop
  /-- It writes no data address. -/
  | quiet {s' : State} (hd : destAddr i s = none) (hq : Quiet i s s') : Ran i s s'
  /-- Its data write is the last thing it does; with a status set that is not empty it is masked (20_memory.md R108). -/
  | wrote {t : DataAddr} {v : Byte} {masked : Bool} {b s' : State} (hd : destAddr i s = some t) (hq : Quiet i s b)
      (hm : statusSet s.cfg.flagsVariant i ≠ Flags.clear → masked = true) (hw : memWrite t v masked b = .next s') :
      Ran i s s'
  /-- It writes and then skips (log 17). -/
  | wroteAndSkipped {t : DataAddr} {v : Byte} {b s' : State} (hd : destAddr i s = some t) (hq : Quiet i s b)
      (hm : statusSet s.cfg.flagsVariant i = Flags.clear) (hp : assignsPc i = true)
      (hw : memWrite t v false b = .next s') : Ran i s (s'.setPc (skipTarget s))
  /-- It reset the device. -/
  | reset {s' : State} (hi : i = .reset ∨ s.cfg.edges = .hardware) (hr : Restarted s s')
      (hpower : s'.toBit = s.toBit ∧ s'.pdBit = s.pdBit) : Ran i s s'

/-- The free-value counter plays no part in what an instruction does. -/
theorem Ran.of_setFreeCtr {i : Instr} {s s' : State} {n : Nat} (h : Ran i (s.setFreeCtr n) s')
    (hd : destAddr i (s.setFreeCtr n) = destAddr i s) : Ran i s s' := by
  cases h with
  | quiet hd' hq => exact .quiet (hd ▸ hd') { hq with }
  | wrote hd' hq hm hw => exact .wrote (hd ▸ hd') { hq with } hm hw
  | wroteAndSkipped hd' hq hm hp hw => exact .wroteAndSkipped (hd ▸ hd') { hq with } hm hp hw
  | reset hi hr hpower => exact .reset hi { hr with } hpower

/-! The shapes -/

/-- Where the data write of a result goes. -/
def Dest.address (d : Dest) (t : DataAddr) : Option DataAddr :=
  match d with
  | .w => none
  | .f => some t

section
variable {i : Instr} {f : Byte} {a : RamSel} {s s' : State}

theorem byteD_ran {d : Dest} {masked : Bool} {fn : ByteFn} (h : byteD f d a masked fn s = .next s')
    (hd : destAddr i s = Dest.address d (fTarget f a s)) (hn : instrWords i = 1)
    (hf : ∀ v w fl, FlagsKept (statusSet s.cfg.flagsVariant i) fl (fn v w fl).2)
    (hm : statusSet s.cfg.flagsVariant i ≠ Flags.clear → masked = true) : Ran i s s' := by
  obtain ⟨-, h⟩ := byteD_eq_next.1 h
  have hr := (fState_frame f a (d == .f) s).steady
  cases d with
  | w =>
    obtain rfl := h
    exact .quiet hd (.of_advance 1 (((hr.setFlags _).setPc _).setW _) (hf _ _ _) hn rfl)
  | f => exact .wrote hd (.of_advance 1 ((hr.setFlags _).setPc _) (hf _ _ _) hn rfl) hm h

theorem bitWrite_ran {fn : Byte → Byte} (h : bitWrite f a fn s = .next s') (hd : destAddr i s = some (fTarget f a s))
    (hn : instrWords i = 1) (hs : statusSet s.cfg.flagsVariant i = Flags.clear) : Ran i s s' :=
  byteD_ran h hd hn (fun _ _ _ => .refl _ _) fun hne => absurd hs hne

theorem writeOnly_ran {v : Byte} {masked : Bool} {fl : Flags} (h : writeOnly f a v masked fl s = .next s')
    (hd : destAddr i s = some (fTarget f a s)) (hn : instrWords i = 1)
    (hf : FlagsKept (statusSet s.cfg.flagsVariant i) s.flags fl)
    (hm : statusSet s.cfg.flagsVariant i ≠ Flags.clear → masked = true) : Ran i s s' := by
  obtain ⟨r, hr, hw⟩ := andThen_eq_next.1 h
  rw [resolve_eq] at hr
  split at hr
  · obtain rfl := Host.Outcome.next.inj hr
    have hfr := afterResolve_frame (ea f a s) s
    exact .wrote hd (.of_advance 1 ((hfr.steady.setFlags fl).setPc _) hf hn (congrArg (· + 2) hfr.pc)) hm hw
  · nomatch hr

theorem testSkip_ran {cond : Byte → Bool} (h : testSkip f a cond s = .next s') (hd : destAddr i s = none)
    (hp : assignsPc i = true) : Ran i s s' := by
  obtain ⟨-, -, rfl⟩ := testSkip_eq_next.1 h
  have hfr := fState_frame f a false s
  refine .quiet hd (.of_jump (hfr.steady.setPc _) hfr.flags hp fun he => ?_)
  rw [State.setPc_pc]
  split
  · exact skipTarget_even he
  · exact pc_even_add he rfl

theorem countSkip_ran {d : Dest} {fn : Byte → Byte} {cond : Byte → Bool} (h : countSkip f d a fn cond s = .next s')
    (hd : destAddr i s = Dest.address d (fTarget f a s)) (hp : assignsPc i = true)
    (hs : statusSet s.cfg.flagsVariant i = Flags.clear) : Ran i s s' := by
  obtain ⟨o, ho, h⟩ := andThen_eq_next.1 h
  obtain ⟨-, rfl⟩ := readF_eq_next.1 ho
  have hfr := fState_frame f a (d == .f) s
  have hnext (he : s.pc.getLsbD 0 = false) : (fState f a (d == .f) s).advance.pc.getLsbD 0 = false := by
    rw [State.advance_pc, hfr.pc]
    exact pc_even_add he rfl
  split at h
  · obtain ⟨p, hskip, h⟩ := andThen_eq_next.1 h
    obtain ⟨-, rfl⟩ := skipPc_eq_next.1 hskip
    obtain ⟨s1, hw, h⟩ := andThen_eq_next.1 h
    obtain rfl := Host.Outcome.next.inj h
    cases d with
    | w =>
      obtain rfl := Host.Outcome.next.inj hw
      exact .quiet hd (.of_jump ((hfr.steady.setW _).setPc _) hfr.flags hp skipTarget_even)
    | f => exact .wroteAndSkipped hd (.of_jump hfr.steady hfr.flags hp fun he => hfr.pc ▸ he) hs hp hw
  · cases d with
    | w =>
      obtain rfl := Host.Outcome.next.inj h
      exact .quiet hd (.of_jump (hfr.steady.advance.setW _) hfr.flags hp hnext)
    | f => exact .wrote hd (.of_jump hfr.steady.advance hfr.flags hp hnext) (fun hne => absurd hs hne) h

/-- An instruction that goes on to the next word and writes no data address. -/
theorem Ran.of_advance {b : State} (h : Host.Outcome.next b.advance = (Host.Outcome.next s' : Res State))
    (hd : destAddr i s = none) (hn : instrWords i = 1) (hs : Steady s b) (hpc : b.pc = s.pc)
    (hf : FlagsKept (statusSet s.cfg.flagsVariant i) s.flags b.flags) : Ran i s s' := by
  obtain rfl := Host.Outcome.next.inj h
  exact .quiet hd (.of_advance 1 (hs.setPc _) hf hn (congrArg (· + 2) hpc))

/-- An instruction that only sets the pc. -/
theorem Ran.of_setPc {p : ProgAddr} (h : Host.Outcome.next (s.setPc p) = (Host.Outcome.next s' : Res State))
    (hd : destAddr i s = none) (hp : assignsPc i = true)
    (he : s.pc.getLsbD 0 = false → p.getLsbD 0 = false) : Ran i s s' := by
  obtain rfl := Host.Outcome.next.inj h
  exact .quiet hd (.of_jump ((Steady.refl s).setPc p) rfl hp he)

theorem branchIf_ran {cond : Bool} {n : BitVec 8} (h : branchIf cond n s = .next s') (hd : destAddr i s = none)
    (hp : assignsPc i = true) : Ran i s s' := by
  unfold branchIf at h
  split at h
  · exact .of_setPc h hd hp fun he => relTarget8_even he n
  · exact .of_setPc h hd hp fun he => pc_even_add he rfl

theorem literalW_ran {y : Byte × Flags} (h : literalW y s = .next s') (hd : destAddr i s = none)
    (hn : instrWords i = 1) (hf : FlagsKept (statusSet s.cfg.flagsVariant i) s.flags y.2) : Ran i s s' :=
  .of_advance h hd hn (((Steady.refl s).setFlags _).setW _) rfl hf

theorem pushThen_ran {v : BitVec 21} {k : State → Res State} (h : pushThen v s k = .next s') (hd : destAddr i s = none)
    (hk : ∀ b, StackFrame s b → k b = .next s' → Quiet i s s') : Ran i s s' := by
  rcases pushThen_frame h with ⟨b, hb, h⟩ | ⟨he, b, hb, rfl⟩
  · exact .quiet hd (hk b hb h)
  · exact .reset (.inr he) { hb.steady with pc := rfl } ⟨hb.steady.toBit, hb.steady.pdBit⟩

theorem popThen_ran {s0 : State} {k : ProgAddr → State → Res State} (h : popThen s0 k = .next s') (h0 : Steady s s0)
    (hd : destAddr i s = none)
    (hk : ∀ p b, p.getLsbD 0 = false → StackFrame s0 b → k p b = .next s' → Quiet i s s') : Ran i s s' := by
  rcases popThen_frame h with ⟨p, b, hp, hb, h⟩ | ⟨he, rfl⟩
  · exact .quiet hd (hk p b hp hb h)
  · exact .reset (.inr (h0.cfg ▸ he)) { h0 with pc := rfl } ⟨h0.toBit, h0.pdBit⟩

theorem tableRead_eq_next (h : tableRead s = .next s') : ∃ v, s' = s.setTablat v := by
  unfold tableRead at h
  split at h
  · nomatch h
  · dsimp only at h
    split at h
    · exact ⟨_, (Host.Outcome.next.inj h).symm⟩
    · nomatch h

theorem tableWrite_eq_next (h : tableWrite s = .next s') : ∃ h0 h1, s' = { s with hold0 := h0, hold1 := h1 } := by
  unfold tableWrite at h
  split at h
  · nomatch h
  · split at h
    · nomatch h
    · obtain rfl := Host.Outcome.next.inj h
      split
      · exact ⟨_, _, rfl⟩
      · exact ⟨_, _, rfl⟩

/-- A table access, with its pointer moved before or after it. -/
theorem table_ran {x : Res State} {g : State → State} (h : andThen x (fun s1 => .next (g s1).advance) = .next s')
    (hd : destAddr i s = none) (hn : instrWords i = 1)
    (hx : ∀ s1, x = .next s1 → Steady s (g s1) ∧ (g s1).pc = s.pc ∧ (g s1).flags = s.flags) : Ran i s s' := by
  obtain ⟨s1, h1, h⟩ := andThen_eq_next.1 h
  obtain ⟨hs, hpc, hf⟩ := hx s1 h1
  exact .of_advance h hd hn hs hpc (.of_eq hf)

theorem tableRead_steady {b : State} (hb : Steady s b) (h : tableRead b = .next s') :
    Steady s s' ∧ s'.pc = b.pc ∧ s'.flags = b.flags := by
  obtain ⟨v, rfl⟩ := tableRead_eq_next h
  exact ⟨hb.setTablat v, rfl, rfl⟩

theorem tableWrite_steady {b : State} (hb : Steady s b) (h : tableWrite b = .next s') :
    Steady s s' ∧ s'.pc = b.pc ∧ s'.flags = b.flags := by
  obtain ⟨h0, h1, rfl⟩ := tableWrite_eq_next h
  exact ⟨{ hb with }, rfl, rfl⟩

theorem Steady.reenable {b : State} (h : Steady s b) : Steady s (reenable b) := by
  unfold Machine.reenable
  split <;> exact { h with }

theorem reenable_pc (b : State) : (reenable b).pc = b.pc := by
  unfold reenable
  split <;> rfl

theorem reenable_flags (b : State) : (reenable b).flags = b.flags := by
  unfold reenable
  split <;> rfl

/-- A return that restores W, the flags and BSR (10_state.md R50). -/
theorem Quiet.of_restore {b : State} (h : Steady s b) (hr : restoresStatus i = true) (ha : assignsPc i = true)
    (he : b.pc.getLsbD 0 = false) : Quiet i s (restore b) :=
  { h with
    flags := fun h0 => absurd (hr.symm.trans h0) nofun
    shadows := fun _ => ⟨h.ws, h.statuss, h.bsrs⟩
    power := fun _ _ => ⟨h.toBit, h.pdBit⟩
    pc_even := fun _ => he
    pc_advance := fun h0 => absurd (ha.symm.trans h0) nofun }

end

/-! The instructions that are no shape's -/

section
variable {s s' : State}

theorem execMovff_ran {fs fd : DataAddr} (h : execMovff fs fd s = .next s') : Ran (.movff fs fd) s s' := by
  obtain ⟨o, ho, h⟩ := andThen_eq_next.1 h
  obtain ⟨-, -, rfl⟩ := operandAt_eq_next.1 ho
  obtain ⟨r, hr, h⟩ := andThen_eq_next.1 h
  rw [resolve_eq] at hr
  split at hr
  · obtain rfl := Host.Outcome.next.inj hr
    have hfr := ((afterResolve_frame fs s).trans (afterRead_frame (targetOf fs s) false _)).trans
      (afterResolve_frame fd _)
    have hd : destAddr (.movff fs fd) s =
        some (targetOf fd (afterRead (targetOf fs s) false (afterResolve fs s))) := by
      unfold afterRead
      split <;> rfl
    dsimp only at h
    split at h
    · nomatch h
    · have hq : Quiet (.movff fs fd) s ((afterResolve fd _).setPc (s.pc + 4)) :=
        .of_advance 2 (hfr.steady.setPc _) (.of_eq hfr.flags) rfl rfl
      exact .wrote hd hq (fun hne => absurd rfl hne) h
  · nomatch hr

theorem execMulwf_ran {f : Byte} {a : RamSel} (h : execMulwf f a s = .next s') : Ran (.mulwf f a) s s' := by
  obtain ⟨o, ho, h⟩ := andThen_eq_next.1 h
  obtain ⟨-, rfl⟩ := readF_eq_next.1 ho
  have hfr := fState_frame f a false s
  exact .of_advance h rfl rfl (hfr.steady.setProd _) hfr.pc (.of_eq hfr.flags)

theorem execIorwf_ran {f : Byte} {d : Dest} {a : RamSel} (h : execIorwf f d a s = .next s') :
    Ran (.iorwf f d a) s s' := by
  refine byteD_ran h rfl rfl (fun v w fl => ?_) fun hne => ?_ <;>
    cases hv : s.cfg.flagsVariant <;> simp only [statusSet, literalFlags, hv] at *
  · exact .setNZ _ _
  · exact .refl _ _
  · rfl
  · exact absurd rfl hne

theorem execNegf_ran {f : Byte} {a : RamSel} (h : execNegf f a s = .next s') : Ran (.negf f a) s s' := by
  refine byteD_ran h rfl rfl (fun v w fl => ?_) fun hne => ?_ <;>
    cases hv : s.cfg.flagsVariant <;> simp only [statusSet, literalFlags, hv] at *
  · exact .all _ _
  · exact .refl _ _
  · rfl
  · exact absurd rfl hne

theorem execRlcf_ran {f : Byte} {d : Dest} {a : RamSel} (h : execRlcf f d a s = .next s') : Ran (.rlcf f d a) s s' := by
  unfold execRlcf rlcfCounted at h
  cases hv : s.cfg.flagsVariant with
  | corrected =>
    have hl : literalFlags s = false := by simp [literalFlags, hv]
    simp only [hl, rlcfFlags, Bool.false_eq_true, if_false] at h
    refine byteD_ran h rfl rfl (fun v w fl => ?_) fun _ => rfl
    rw [hv]
    exact .setNZC _ _ _
  | sourceLiteral =>
    have hl : literalFlags s = true := by simp [literalFlags, hv]
    simp only [hl, if_true] at h
    refine Ran.of_setFreeCtr (byteD_ran h rfl rfl (fun v w fl => ?_) fun _ => rfl) rfl
    rw [State.setFreeCtr_cfg, hv]
    exact .all _ _

theorem execCall_ran {k : BitVec 20} {fast : Bool} (h : execCall k fast s = .next s') : Ran (.call k fast) s s' := by
  refine pushThen_ran h rfl fun b hb h => ?_
  obtain rfl := Host.Outcome.next.inj h
  cases fast with
  | false => exact .of_jump (hb.steady.setPc _) hb.flags rfl fun _ => pc_even_append_zero k
  | true =>
    exact { hb.steady with
      flags := fun _ => .of_eq hb.flags
      shadows := fun hne => absurd rfl (hne k)
      power := fun _ _ => ⟨hb.steady.toBit, hb.steady.pdBit⟩
      pc_even := fun _ => pc_even_append_zero k
      pc_advance := nofun }

theorem execPush_ran (h : execPush s = .next s') : Ran .push s s' := by
  refine pushThen_ran h rfl fun b hb h => ?_
  obtain rfl := Host.Outcome.next.inj h
  exact .of_advance 1 (hb.steady.setPc _) (.of_eq hb.flags) rfl rfl

theorem execRcall_ran {n : BitVec 11} (h : execRcall n s = .next s') : Ran (.rcall n) s s' := by
  refine pushThen_ran h rfl fun b hb h => ?_
  obtain rfl := Host.Outcome.next.inj h
  exact .of_jump (hb.steady.setPc _) hb.flags rfl fun he => relTarget11_even he n

theorem execPop_ran (h : execPop s = .next s') : Ran .pop s s' := by
  refine popThen_ran h (.refl s) rfl fun p b _ hb h => ?_
  obtain rfl := Host.Outcome.next.inj h
  exact .of_advance 1 (hb.steady.setPc _) (.of_eq hb.flags) rfl rfl

theorem execRetlw_ran {k : Byte} (h : execRetlw k s = .next s') : Ran (.retlw k) s s' := by
  refine popThen_ran h ((Steady.refl s).setW k) rfl fun p b hp hb h => ?_
  obtain rfl := Host.Outcome.next.inj h
  exact .of_jump { hb.steady.setPc p with } hb.flags rfl fun _ => hp

theorem execReturn_ran {fast : Bool} (h : execReturn fast s = .next s') : Ran (.retn fast) s s' := by
  refine popThen_ran h (.refl s) rfl fun p b hp hb h => ?_
  obtain rfl := Host.Outcome.next.inj h
  cases fast with
  | false => exact .of_jump (hb.steady.setPc p) hb.flags rfl fun _ => hp
  | true => exact .of_restore (hb.steady.setPc p) rfl rfl hp

theorem execRetfie_ran {fast : Bool} (h : execRetfie fast s = .next s') : Ran (.retfie fast) s s' := by
  unfold execRetfie returnFromInterrupt at h
  refine popThen_ran h (.refl s) rfl fun p b hp hb h => ?_
  obtain rfl := Host.Outcome.next.inj h
  have hpc : (reenable (b.setPc p)).pc.getLsbD 0 = false := by rw [reenable_pc]; exact hp
  cases fast with
  | false => exact .of_jump (hb.steady.setPc p).reenable ((reenable_flags _).trans hb.flags) rfl fun _ => hpc
  | true => exact .of_restore (hb.steady.setPc p).reenable rfl rfl hpc

/-- The `ff` that names no FSR is the one that is not well-formed (30_encoding.md R160). -/
theorem lfsr_not_wellFormed {ff : BitVec 2} {k : BitVec 12} (h : fsrOfField ff = none) :
    (Instr.lfsr ff k).wellFormed = false := by
  have key : ∀ ff : BitVec 2, fsrOfField ff = none → (ff != 3#2) = false := by decide
  exact key ff h

theorem execLfsr_ran {ff : BitVec 2} {k : BitVec 12} (h : execLfsr ff k s = .next s') : Ran (.lfsr ff k) s s' := by
  unfold execLfsr at h
  split at h
  next j _ =>
    obtain rfl := Host.Outcome.next.inj h
    exact .quiet rfl (.of_advance 2 (((Steady.refl s).setFsr j k).setPc _)
      (.of_eq ((State.setPc_flags _ _).trans (by cases j <;> rfl))) rfl rfl)
  next hff =>
    have hbad : (Instr.lfsr ff k).wellFormed = false := lfsr_not_wellFormed hff
    split at h
    · nomatch h
    · obtain rfl := Host.Outcome.next.inj h
      exact .quiet rfl (.of_steady (Steady.refl s).advance (.refl _ _) (pc_even_add · rfl)
        fun _ hw => absurd (hbad.symm.trans hw) nofun)

/-- CLRWDT and SLEEP: TO and PD besides the pc (10_state.md R53). -/
theorem Quiet.of_power {i : Instr} {b : State} (hi : i = .clrwdt ∨ i = .sleep) (h : SameStorage s b)
    (hs : b.ws = s.ws ∧ b.statuss = s.statuss ∧ b.bsrs = s.bsrs) (hf : b.flags = s.flags) (hpc : b.pc = s.pc + 2) :
    Quiet i s b :=
  { h with
    flags := fun _ => .of_eq hf
    shadows := fun _ => hs
    power := fun h1 h2 => (hi.elim h1 h2).elim
    pc_even := fun he => hpc ▸ pc_even_add he rfl
    pc_advance := fun _ _ => by rcases hi with rfl | rfl <;> exact hpc }

end

/-! Every instruction -/

/-- A completed instruction has done what `Ran` lists. -/
theorem exec_ran {i : Instr} {s s' : State} (h : exec i s = .next s') : Ran i s s' := by
  unfold exec at h
  cases i with
  | addwf | addwfc | decf | incf | subfwb | subwf | subwfb =>
    exact byteD_ran h rfl rfl (fun _ _ _ => .all _ _) fun _ => rfl
  | andwf | comf | movf | rlncf | rrncf | xorwf =>
    exact byteD_ran h rfl rfl (fun _ _ _ => .setNZ _ _) fun _ => rfl
  | rrcf => exact byteD_ran h rfl rfl (fun _ _ _ => .setNZC _ _ _) fun _ => rfl
  | swapf => exact byteD_ran h rfl rfl (fun _ _ _ => .refl _ _) fun hne => absurd rfl hne
  | bcf | bsf | btg => exact bitWrite_ran h rfl rfl rfl
  | iorwf => exact execIorwf_ran h
  | negf => exact execNegf_ran h
  | rlcf => exact execRlcf_ran h
  | clrf =>
    exact writeOnly_ran h rfl rfl ⟨fun _ => rfl, fun _ => rfl, nofun, fun _ => rfl, fun _ => rfl⟩ fun _ => rfl
  | movwf | setf => exact writeOnly_ran h rfl rfl (.refl _ _) fun hne => absurd rfl hne
  | cpfseq | cpfsgt | cpfslt | tstfsz | btfsc | btfss => exact testSkip_ran h rfl rfl
  | decfsz | dcfsnz | incfsz | infsnz => exact countSkip_ran h rfl rfl rfl
  | movff => exact execMovff_ran h
  | mulwf => exact execMulwf_ran h
  | bc | bn | bnc | bnn | bnov | bnz | bov | bz => exact branchIf_ran h rfl rfl
  | bra n => exact .of_setPc h rfl rfl fun he => relTarget11_even he n
  | goto k => exact .of_setPc h rfl rfl fun _ => pc_even_append_zero k
  | call => exact execCall_ran h
  | rcall => exact execRcall_ran h
  | push => exact execPush_ran h
  | pop => exact execPop_ran h
  | retlw => exact execRetlw_ran h
  | retn => exact execReturn_ran h
  | retfie => exact execRetfie_ran h
  | reset =>
    obtain rfl := Host.Outcome.next.inj h
    exact .reset (.inl rfl) (resetColumn_restarted s) ⟨rfl, rfl⟩
  | clrwdt =>
    obtain rfl := Host.Outcome.next.inj h
    exact .quiet rfl (.of_power (.inl rfl) ⟨rfl, rfl, rfl, rfl, rfl, rfl⟩ ⟨rfl, rfl, rfl⟩ rfl rfl)
  | sleep =>
    obtain rfl := Host.Outcome.next.inj h
    exact .quiet rfl (.of_power (.inr rfl) ⟨rfl, rfl, rfl, rfl, rfl, rfl⟩ ⟨rfl, rfl, rfl⟩ rfl rfl)
  | daw =>
    exact .of_advance h rfl rfl (((Steady.refl s).setW _).setFlags _) rfl
      ⟨nofun, fun _ => rfl, fun _ => rfl, fun _ => rfl, fun _ => rfl⟩
  | nop | nop2 => exact .of_advance h rfl rfl (.refl s) rfl (.refl _ _)
  | addlw | sublw => exact literalW_ran h rfl rfl (.all _ _)
  | andlw | iorlw | xorlw => exact literalW_ran h rfl rfl (.setNZ _ _)
  | movlw => exact literalW_ran h rfl rfl (.refl _ _)
  | lfsr => exact execLfsr_ran h
  | movlb => exact .of_advance h rfl rfl ((Steady.refl s).setBsr _) rfl (.refl _ _)
  | mullw => exact .of_advance h rfl rfl ((Steady.refl s).setProd _) rfl (.refl _ _)
  | tblrd => exact table_ran h rfl rfl fun _ => tableRead_steady (.refl s)
  | tblrdPostInc | tblrdPostDec =>
    exact table_ran h rfl rfl fun _ h1 =>
      have ⟨hs, hpc, hf⟩ := tableRead_steady (.refl s) h1
      ⟨hs.setTblptr _, hpc, hf⟩
  | tblrdPreInc => exact table_ran h rfl rfl fun _ => tableRead_steady ((Steady.refl s).setTblptr _)
  | tblwt => exact table_ran h rfl rfl fun _ => tableWrite_steady (.refl s)
  | tblwtPostInc | tblwtPostDec =>
    exact table_ran h rfl rfl fun _ h1 =>
      have ⟨hs, hpc, hf⟩ := tableWrite_steady (.refl s) h1
      ⟨hs.setTblptr _, hpc, hf⟩
  | tblwtPreInc => exact table_ran h rfl rfl fun _ => tableWrite_steady ((Steady.refl s).setTblptr _)

end Sys2Proof.Machine
end

section
/-! SUPPORT. The invariant (`Inv`) is kept by data writes, by every instruction and by every boundary. -/

namespace Sys2Proof.Machine

variable {s s' : State}

/-- The invariant speaks of storage and the pc only. -/
theorem Inv.of_sameStorage {b : State} (hi : Inv s) (h : SameStorage s b) (hpc : b.pc.getLsbD 0 = false) : Inv b where
  pc_even := hpc
  dm_wf := h.dm ▸ hi.dm_wf
  dm_impl := by
    unfold dmImplemented
    rw [h.dm, h.cfg]
    exact hi.dm_impl
  pm_wf := h.pm ▸ hi.pm_wf
  periphIn_wf := h.periphIn ▸ hi.periphIn_wf
  periphOut_wf := h.periphOut ▸ hi.periphOut_wf

theorem Inv.setPc (hi : Inv s) {p : ProgAddr} (hp : p.getLsbD 0 = false) : Inv (s.setPc p) :=
  hi.of_sameStorage ((Steady.refl s).setPc p).toSameStorage hp

theorem Inv.advance (hi : Inv s) : Inv s.advance := hi.setPc (pc_even_add hi.pc_even rfl)

/-! Data writes -/

/-- A store at an implemented address keeps data memory to implemented addresses (10_state.md R35). -/
theorem dmImplemented_write {t : DataAddr} (v : Byte) (h : dmImplemented s = true) (ht : gprOk s.cfg t = true) :
    dmImplemented (s.setDm (Memory.write .data s.dm t.toNat v)) = true := by
  refine List.all_eq_true.2 fun c hc => ?_
  rcases Memory.mem_write _ _ _ _ hc with hc | hc
  · exact List.all_eq_true.1 h c hc
  · rw [hc, Config.da_val, Bool.and_eq_true]
    exact ⟨ht, decide_eq_true t.isLt⟩

/-- Of storage a register write can only set LWRT; the pc it leaves is even (10_state.md R42). -/
theorem sfrWrite_keepsInv (r : Sfr) (v : Byte) (masked : Bool) (hi : Inv s) : Inv (sfrWrite r v masked s) := by
  cases r with
  | pcl => exact hi.setPc (pclTarget_even s v)
  | tosu | tosh | tosl =>
    unfold sfrWrite
    rw [State.setEntry_eq]
    exact { hi with }
  | fsrh j | fsrl j => cases j <;> exact { hi with }
  | status => cases masked <;> exact { hi with }
  | stkptr | pclatu | pclath | tblptru | tblptrh | tblptrl | tablat | prodh | prodl | intcon | wreg | bsr | rcon =>
    exact { hi with }

theorem memWrite_keepsInv {t : DataAddr} {v : Byte} {masked : Bool} (hi : Inv s)
    (h : memWrite t v masked s = .next s') : Inv s' := by
  obtain ⟨-, rfl⟩ := memWrite_eq_next.1 h
  unfold afterWrite
  cases hp : placeOf s.cfg t with
  | gpr =>
    exact { hi with
      dm_wf := Memory.write_wf _ _ _ hi.dm_wf
      dm_impl := dmImplemented_write v hi.dm_impl (placeOf_gpr.1 hp) }
  | virt => exact hi
  | core r => exact sfrWrite_keepsInv r v masked hi
  | outside => exact { hi with periphOut_wf := Memory.write_wf _ _ _ hi.periphOut_wf }

/-! Instructions -/

theorem Quiet.keepsInv {i : Instr} {b : State} (hi : Inv s) (h : Quiet i s b) : Inv b :=
  hi.of_sameStorage h.toSameStorage (h.pc_even hi.pc_even)

theorem Restarted.keepsInv {b : State} (hi : Inv s) (h : Restarted s b) : Inv b :=
  hi.of_sameStorage h.toSameStorage (h.pc ▸ rfl)

theorem exec_keepsInv {i : Instr} (hi : Inv s) (h : exec i s = .next s') : Inv s' := by
  cases exec_ran h with
  | quiet _ hq => exact hq.keepsInv hi
  | wrote _ hq _ hw => exact memWrite_keepsInv (hq.keepsInv hi) hw
  | wroteAndSkipped _ hq _ _ hw => exact (memWrite_keepsInv (hq.keepsInv hi) hw).setPc (skipTarget_even hi.pc_even)
  | reset _ hr _ => exact hr.keepsInv hi

/-! The boundary -/

theorem runInstr_keepsInv (hi : Inv s) (h : runInstr s = .next s') : Inv s' := by
  obtain ⟨r, -, h⟩ := andThen_eq_next.1 h
  cases r with
  | some i => exact exec_keepsInv hi h
  | none =>
    obtain rfl := Host.Outcome.next.inj h
    exact hi.advance

theorem enterInterrupt_keepsInv {level : Level} (hi : Inv s) (h : enterInterrupt level s = .next s') : Inv s' := by
  rcases pushThen_frame h with ⟨b, hb, h⟩ | ⟨-, b, hb, rfl⟩
  · obtain rfl := Host.Outcome.next.inj h
    refine hi.of_sameStorage ?_ (vector_even _ _)
    split <;> exact { hb.steady with }
  · exact Restarted.keepsInv hi { hb.steady with pc := rfl }

theorem takeInput_keepsInv (hi : Inv s) : Inv (takeInput s) := by
  unfold takeInput
  split
  · exact hi
  · exact { hi with periphIn_wf := Memory.writeAll_wf _ _ hi.periphIn_wf }

theorem externalReset_restarted (kind : ExtReset) (s : State) : Restarted s (externalReset kind s) := by
  cases kind <;> exact { resetColumn_restarted s with }

theorem boundary_keepsInv {i : Input} (hi : Inv s) (h : boundary i s = .next s') : Inv s' := by
  unfold boundary at h
  split at h
  · obtain rfl := Host.Outcome.next.inj h
    exact (externalReset_restarted _ s).keepsInv hi
  · split at h
    · split at h
      · exact runInstr_keepsInv (s := wakeUp i s) { hi with } h
      · obtain rfl := Host.Outcome.next.inj h
        exact hi
    · split at h
      · obtain rfl := Host.Outcome.next.inj h
        exact Restarted.keepsInv hi { resetColumn_restarted s with }
      · have hh : Inv (s.setHeld false false) := { hi with }
        split at h
        · exact enterInterrupt_keepsInv hh h
        · exact runInstr_keepsInv hh h

/-- Settles O8: an instruction keeps storage but for its one data write (`exec_ran`), a data write keeps the canonical
form (`Memory.write_wf`), and every rule that assigns the pc assigns an even value. -/
theorem stepKeepsInv : Obligations.StepKeepsInv :=
  fun _ _ hi h => boundary_keepsInv (takeInput_keepsInv hi) h

/-- Settles O9: the power-on state has pc 0 and empty memories. -/
theorem resetMeetsInv : Obligations.ResetMeetsInv := ⟨rfl, rfl, rfl, rfl, rfl, rfl⟩

end Sys2Proof.Machine
end

section
/-! SUPPORT. Frames of every instruction: the flags outside its status set, the pc, the shadows. -/

namespace Sys2Proof.Machine

variable {i : Instr} {s s' : State}

/-- A masked write leaves the flags, whatever its address (20_memory.md R108). -/
theorem memWrite_masked_flags {t : DataAddr} {v : Byte} (h : memWrite t v true s = .next s') : s'.flags = s.flags := by
  by_cases hp : placeOf s.cfg t = .core .status
  · obtain ⟨-, rfl⟩ := memWrite_eq_next.1 h
    unfold afterWrite
    rw [hp]
    rfl
  · exact (memWrite_frame h).flags hp

/-- With `edges = stop` only the RESET instruction resets the device. -/
theorem eq_reset_of_stop (he : s.cfg.edges = .stop) (h : i = .reset ∨ s.cfg.edges = .hardware) : i = .reset :=
  h.resolve_right fun hh => nomatch he.symm.trans hh

theorem exec_flagsKept (he : s.cfg.edges = .stop) (h : exec i s = .next s') (hr : restoresStatus i = false)
    (hd : (∀ t, destAddr i s = some t → placeOf s.cfg t ≠ .core .status) ∨
      statusSet s.cfg.flagsVariant i ≠ Flags.clear) :
    FlagsKept (statusSet s.cfg.flagsVariant i) s.flags s'.flags := by
  cases exec_ran h with
  | quiet _ hq => exact hq.flags hr
  | @wrote t v masked b _ ht hq hm hw =>
    have hkeep : s'.flags = b.flags := by
      rcases hd with hd | hd
      · exact (memWrite_frame hw).flags (hq.cfg ▸ hd t ht)
      · exact memWrite_masked_flags (hm hd ▸ hw)
    exact hkeep ▸ hq.flags hr
  | @wroteAndSkipped t _ b s1 ht hq hm _ hw =>
    have hkeep : s1.flags = b.flags := (memWrite_frame hw).flags (hq.cfg ▸ hd.resolve_right (· hm) t ht)
    exact hkeep ▸ hq.flags hr
  | reset hi _ _ =>
    obtain rfl := eq_reset_of_stop he hi
    exact .all _ _

/-- Settles O11: the instruction's own flags are inside its status set, and its data write touches STATUS only when it
is not masked (`exec_flagsKept`). -/
theorem flagsOutsideTheStatusSetStay : Obligations.FlagsOutsideTheStatusSetStay := by
  intro i s s' he h hr hd
  have hk := exec_flagsKept he h hr hd
  exact ⟨hk.c, hk.dc, hk.z, hk.ov, hk.n⟩

/-- Settles O12: the pc has moved past the words before the data write, and only a write to PCL moves it again. -/
theorem pcAdvances : Obligations.PcAdvances := by
  intro i s s' he hwf h ha hd
  cases exec_ran h with
  | quiet _ hq => exact hq.pc_advance ha hwf
  | @wrote t _ _ b _ ht hq _ hw =>
    have hkeep : s'.pc = b.pc := (memWrite_frame hw).pc (hq.cfg ▸ hd t ht)
    exact hkeep.trans (hq.pc_advance ha hwf)
  | wroteAndSkipped _ _ _ hp _ => exact absurd (hp.symm.trans ha) nofun
  | reset hi _ _ =>
    obtain rfl := eq_reset_of_stop he hi
    nomatch ha

/-- Settles O15: no data write reaches the shadows, and of the instructions' own effects only a fast CALL's does. -/
theorem shadowsChangeOnlyByFastCall : Obligations.ShadowsChangeOnlyByFastCall := by
  intro i s s' he h hne hcall
  cases exec_ran h with
  | quiet _ hq => exact hq.shadows hcall
  | wrote _ hq _ hw =>
    obtain ⟨hws, hstatuss, hbsrs⟩ := (memWrite_frame hw).shadows
    rw [hws, hstatuss, hbsrs]
    exact hq.shadows hcall
  | wroteAndSkipped _ hq _ _ hw =>
    obtain ⟨hws, hstatuss, hbsrs⟩ := (memWrite_frame hw).shadows
    rw [State.setPc_ws, State.setPc_statuss, State.setPc_bsrs, hws, hstatuss, hbsrs]
    exact hq.shadows hcall
  | reset hi _ _ => exact absurd (eq_reset_of_stop he hi) hne

end Sys2Proof.Machine
end

section
/-! SUPPORT. The return stack with `edges = stop` (10_state.md R46, R47): push, pop and their faults; and the RESET
column of R70. -/

namespace Sys2Proof.Machine

variable {s : State}

/-! Push -/

/-- The state after a push that has room (10_state.md R46). -/
def afterPush (v : BitVec 21) (s : State) : State :=
  ((s.setSp (s.sp + 1)).setEntry (s.sp + 1) v).setStkful (s.stkful || fills s)

/-- Room on the stack, as a bound on SP. -/
theorem sp_succ_le_of_canPush (h : canPush s = true) : s.sp.toNat + 1 ≤ s.cfg.stackDepth.val := by
  simp only [canPush, fills, Bool.or_eq_true, decide_eq_true_eq, Bool.and_eq_true, beq_iff_eq] at h
  omega

theorem pushThen_of_canPush (v : BitVec 21) (k : State → Res State) (h : canPush s = true) :
    pushThen v s k = k (afterPush v s) := by
  rcases Nat.lt_or_eq_of_le (sp_succ_le_of_canPush h) with hlt | hsp
  · have hf : fills s = false := beq_eq_false_iff_ne.2 hlt.ne
    rw [pushThen_of_lt k hlt, afterPush, hf, Bool.or_false, State.setEntry_eq]
    rfl
  · have hf : fills s = true := beq_iff_eq.2 hsp
    have hv : s.cfg.stvren = false := by
      simpa only [canPush, hsp, lt_irrefl, decide_false, hf, Bool.false_or, Bool.true_and, Bool.not_eq_true'] using h
    unfold pushThen
    rw [if_neg (by omega), if_pos hsp, afterPush, hf, Bool.or_true]
    simp only [hv, Bool.false_eq_true, if_false]

/-- The stack pointer does not wrap while the stack has room. -/
theorem sp_succ_ne_zero (h : s.sp.toNat + 1 ≤ s.cfg.stackDepth.val) : s.sp + 1 ≠ 0 := by
  have := s.cfg.stackDepth.isLt
  intro h0
  have h1 : (s.sp.toNat + 1) % 2 ^ 5 = 0 := congrArg BitVec.toNat h0
  omega

theorem afterPush_sp (v : BitVec 21) (s : State) : (afterPush v s).sp = s.sp + 1 := by simp [afterPush]

theorem afterPush_entry (v : BitVec 21) (h : canPush s = true) (j : BitVec 5) :
    (afterPush v s).entry j = if j = s.sp + 1 then v else s.entry j :=
  State.entry_setEntry (s.setSp (s.sp + 1)) _ j v (sp_succ_ne_zero (sp_succ_le_of_canPush h))

theorem afterPush_pushed (v : BitVec 21) (h : canPush s = true) : Pushed v s (afterPush v s) where
  sp := afterPush_sp v s
  top := by rw [afterPush_entry v h, afterPush_sp, if_pos rfl]
  others j hj := by rw [afterPush_entry v h, if_neg (afterPush_sp v s ▸ hj)]
  stkful := rfl
  frame := by
    unfold afterPush
    rw [State.setEntry_eq]
    rfl

theorem pushThen_of_fills (v : BitVec 21) (k : State → Res State) (he : s.cfg.edges = .stop) (hf : fills s = true)
    (hv : s.cfg.stvren = true) : pushThen v s k = .fault .stackFullReset := by
  have hsp : s.sp.toNat + 1 = s.cfg.stackDepth.val := beq_iff_eq.1 hf
  unfold pushThen
  rw [if_neg (by omega), if_pos hsp]
  simp only [hv, he, if_true]

theorem pushThen_of_full (v : BitVec 21) (k : State → Res State) (he : s.cfg.edges = .stop) (hf : full s = true) :
    pushThen v s k = .fault .stackOverflow := by
  have hsp : s.cfg.stackDepth.val ≤ s.sp.toNat := of_decide_eq_true hf
  unfold pushThen
  rw [if_neg (by omega), if_neg (by omega)]
  simp only [he]

/-- Settles O42: the three cases of `pushThen` by what SP leaves of the stack's depth. -/
theorem pushRule : Obligations.PushRule :=
  fun v _ k he => ⟨fun h => ⟨_, afterPush_pushed v h, pushThen_of_canPush v k h⟩, pushThen_of_fills v k he,
    pushThen_of_full v k he⟩

/-! Pop -/

theorem popValue_toNat (s : State) : s.popValue.toNat = 2 * ((s.entry s.sp).toNat / 2) := by
  have := (s.entry s.sp).isLt
  rw [State.popValue, append_toNat, slice_toNat]
  simp only [BitVec.toNat_ofNat]
  omega

theorem popThen_of_empty (k : ProgAddr → State → Res State) (he : s.cfg.edges = .stop) (h0 : s.sp = 0) :
    popThen s k = .fault .stackUnderflow := by
  unfold popThen
  rw [if_pos h0]
  simp only [he]

/-- Settles O43: `popThen_of_ne` with the value in numbers, and `popThen_of_empty`. -/
theorem popRule : Obligations.PopRule :=
  fun s k he => ⟨fun h0 => ⟨s.popValue, popValue_toNat s, popThen_of_ne k h0⟩, popThen_of_empty k he⟩

/-! The instructions that push or pop -/

section
variable (s : State)

theorem exec_push : exec .push s = pushThen (s.pc + 2) s fun s1 => .next (s1.setPc (s.pc + 2)) := rfl

theorem exec_rcall (n : BitVec 11) :
    exec (.rcall n) s = pushThen (s.pc + 2) s fun s1 => .next (s1.setPc (relTarget11 s.pc n)) := rfl

theorem exec_call (k : BitVec 20) (fast : Bool) : exec (.call k fast) s =
    pushThen (s.pc + 4) s fun s1 => .next ((if fast then save s1 else s1).setPc (wordTarget k)) := rfl

theorem exec_pop : exec .pop s = popThen s fun _ s1 => .next (s1.setPc (s.pc + 2)) := rfl

theorem exec_retlw (k : Byte) : exec (.retlw k) s = popThen (s.setW k) fun p s1 => .next (s1.setPc p) := rfl

theorem exec_retn (fast : Bool) : exec (.retn fast) s =
    popThen s fun p s1 => .next (if fast then restore (s1.setPc p) else s1.setPc p) := rfl

theorem exec_retfie (fast : Bool) : exec (.retfie fast) s =
    popThen s fun p s1 => .next (if fast then restore (reenable (s1.setPc p)) else reenable (s1.setPc p)) := rfl

/-- CALL, RCALL and PUSH push before anything else. -/
theorem exec_eq_pushThen {i : Instr} (h : i = .push ∨ (∃ n, i = .rcall n) ∨ ∃ k fast, i = .call k fast) :
    ∃ v k, exec i s = pushThen v s k := by
  rcases h with rfl | ⟨n, rfl⟩ | ⟨k, fast, rfl⟩
  · exact ⟨_, _, exec_push s⟩
  · exact ⟨_, _, exec_rcall s n⟩
  · exact ⟨_, _, exec_call s k fast⟩

/-- POP and the returns pop before anything else, RETLW with WREG written (log 12). -/
theorem exec_eq_popThen {i : Instr}
    (h : i = .pop ∨ (∃ k, i = .retlw k) ∨ (∃ fast, i = .retn fast) ∨ ∃ fast, i = .retfie fast) :
    ∃ w k, exec i s = popThen (s.setW w) k := by
  rcases h with rfl | ⟨k, rfl⟩ | ⟨fast, rfl⟩ | ⟨fast, rfl⟩
  · exact ⟨s.w, _, exec_pop s⟩
  · exact ⟨k, _, exec_retlw s k⟩
  · exact ⟨s.w, _, exec_retn s fast⟩
  · exact ⟨s.w, _, exec_retfie s fast⟩

end

/-- Settles O46: each of the instructions, and interrupt entry, is a push or a pop before anything else. -/
theorem stackFaults : Obligations.StackFaults := by
  intro s he
  refine ⟨fun hf => ⟨fun i hi => ?_, fun _ => pushThen_of_full _ _ he hf⟩,
    fun hf hv => ⟨fun i hi => ?_, fun _ => pushThen_of_fills _ _ he hf hv⟩, fun h0 i hi => ?_⟩
  · obtain ⟨v, k, hx⟩ := exec_eq_pushThen s hi
    rw [hx, pushThen_of_full v k he hf]
  · obtain ⟨v, k, hx⟩ := exec_eq_pushThen s hi
    rw [hx, pushThen_of_fills v k he hf hv]
  · obtain ⟨w, k, hx⟩ := exec_eq_popThen s hi
    exact hx.trans (popThen_of_empty (s := s.setW w) k he h0)

/-! The RESET column -/

theorem resetColumn_fsr (s : State) (j : FsrIdx) : (resetColumn s).fsr j = s.fsr j &&& 0x0FF := by
  cases j <;> rfl

theorem resetColumn_column (s : State) : ResetColumn s (resetColumn s) where
  pc := rfl
  sp := rfl
  stack := rfl
  latches := ⟨rfl, rfl⟩
  tblptr := rfl
  tablat := rfl
  prod := ⟨rfl, rfl⟩
  enables := ⟨rfl, rfl⟩
  intcon := and_low_toNat s.intcon50 1 1 rfl
  fsr j := by
    rw [resetColumn_fsr]
    exact and_low_toNat (s.fsr j) 0x0FF 8 rfl
  w := rfl
  bsr := rfl
  ipen := rfl
  lwrt := rfl
  ri := rfl
  pdBit := rfl
  por := rfl
  dm := rfl
  asleep := rfl
  pm := rfl

/-- Settles O16: the power-on state by evaluation, the RESET instruction by `resetColumn_column`. -/
theorem resetColumns : Obligations.ResetColumns :=
  ⟨⟨rfl, rfl, rfl, rfl, rfl, rfl, rfl, rfl, rfl, rfl, rfl, fun j => by cases j <;> rfl, rfl, rfl, rfl, rfl, rfl, rfl,
    rfl, rfl⟩, fun s => ⟨resetColumn s, rfl, resetColumn_column s, rfl, rfl⟩⟩

end Sys2Proof.Machine
end

section
/-! SUPPORT. `ADD8` and `SetNZ` in integers (10_state.md R36, R37). -/

namespace Sys2Proof.Machine

/-- The nine-bit sum of R36 does not wrap. -/
theorem sum9_toNat (x y : Byte) (c : Bool) :
    (x.zeroExtend 9 + y.zeroExtend 9 + (bit c).zeroExtend 9 : BitVec 9).toNat = x.toNat + y.toNat + c.toNat := by
  have := x.isLt
  have := y.isLt
  have := c.toNat_le
  simp only [BitVec.truncate_eq_setWidth, BitVec.toNat_add, BitVec.toNat_setWidth, bit_toNat]
  omega

/-- Nor does the five-bit sum of the low digits. -/
theorem sum5_toNat (x y : Byte) (c : Bool) :
    ((x.extractLsb' 0 4).zeroExtend 5 + (y.extractLsb' 0 4).zeroExtend 5 + (bit c).zeroExtend 5 : BitVec 5).toNat =
      x.toNat % 16 + y.toNat % 16 + c.toNat := by
  have := c.toNat_le
  simp only [BitVec.truncate_eq_setWidth, BitVec.toNat_add, BitVec.toNat_setWidth, bit_toNat, slice_toNat]
  omega

theorem sumByte_toNat (x y : Byte) (c : Bool) : (sumByte x y c).toNat = (x.toNat + y.toNat + c.toNat) % 256 :=
  BitVec.toNat_ofNat _ _

theorem msb_eq (v : Byte) : v.msb = decide (128 ≤ v.toNat) := BitVec.msb_eq_decide v

theorem toInt_eq (v : Byte) : v.toInt = if v.toNat < 128 then (v.toNat : Int) else v.toNat - 256 := by
  rw [BitVec.toInt_eq_toNat_cond]
  split <;> split <;> omega

theorem eq_zero_iff (v : Byte) : (v == 0) = decide (v.toNat = 0) := by
  rw [Bool.eq_iff_iff, beq_iff_eq, decide_eq_true_eq, ← BitVec.toNat_inj]
  rfl

/-- `SetNZ` by the byte as a number. -/
theorem setNZ_eq (v : Byte) (fl : Flags) : setNZ v fl = resultNZ v fl := by
  unfold setNZ resultNZ
  rw [msb_eq, eq_zero_iff]

/-- Overflow as R36 tests it, on the sign bits, is a signed sum out of range. -/
theorem overflow_iff (x y : Byte) (c : Bool) :
    (x.msb == y.msb && (sumByte x y c).msb != x.msb) = (sumFlags x y c).ov := by
  have := x.isLt
  have := y.isLt
  have := c.toNat_le
  rw [Bool.eq_iff_iff]
  simp only [sumFlags, msb_eq, toInt_eq, sumByte_toNat, Bool.and_eq_true, beq_iff_eq, bne_iff_ne, ne_eq,
    decide_eq_decide, decide_eq_true_eq]
  split <;> split <;> omega

/-- `ADD8` is the integer addition. -/
theorem add8_eq (x y : Byte) (c : Bool) : add8 x y c = (sumByte x y c, sumFlags x y c) := by
  have hr : (x.zeroExtend 9 + y.zeroExtend 9 + (bit c).zeroExtend 9 : BitVec 9).extractLsb' 0 8 = sumByte x y c := by
    rw [← BitVec.toNat_inj, low_toNat, sum9_toNat, sumByte_toNat]
    rfl
  unfold add8
  simp only [hr, overflow_iff, getLsbD_top (n := 8), getLsbD_top (n := 4), sum9_toNat, sum5_toNat]
  simp only [msb_eq, eq_zero_iff, sumByte_toNat]
  rfl

/-- The complement of a byte in numbers. -/
theorem not_toNat (q : Byte) : (~~~q).toNat = 255 - q.toNat := by
  rw [BitVec.toNat_not]

theorem not_toInt (q : Byte) : (~~~q).toInt = -1 - q.toInt := by
  have := q.isLt
  rw [toInt_eq, toInt_eq, not_toNat]
  split <;> split <;> omega

theorem carry_eq (c : Bool) : (c.toNat : Int) = 1 - ((!c).toNat : Int) := by cases c <;> rfl

/-- Adding the complement is subtracting, a carry standing for no borrow. -/
theorem sumByte_not (p q : Byte) (c : Bool) : sumByte p (~~~q) c = diffByte p q (!c) := by
  have := q.isLt
  have := carry_eq c
  rw [← BitVec.toNat_inj, sumByte_toNat, not_toNat, diffByte, BitVec.toNat_ofInt]
  omega

theorem sumFlags_not (p q : Byte) (c : Bool) : sumFlags p (~~~q) c = diffFlags p q (!c) := by
  have := p.isLt
  have := q.isLt
  have := carry_eq c
  unfold sumFlags diffFlags
  simp only [Flags.mk.injEq, not_toNat, not_toInt, decide_eq_decide]
  refine ⟨?_, ?_, ?_, ?_, ?_⟩ <;> omega

/-- Settles O26: `add8_eq`, its reading as a subtraction, and `setNZ_eq`. -/
theorem flagArithmetic : Obligations.FlagArithmetic :=
  ⟨add8_eq, fun p q c => by rw [add8_eq, sumByte_not, sumFlags_not], setNZ_eq⟩

end Sys2Proof.Machine
end

section
/-! SUPPORT. Where a fetch stops (10_state.md R41, 30_encoding.md R151), from the step down to the words. -/

namespace Sys2Proof.Machine

variable {s : State}

/-! The step of an undisturbed core -/

theorem irqLevel_none (s : State) : irqLevel false false s = none := by
  unfold irqLevel
  cases s.ipen <;> rfl

/-- With a silent environment and the core awake a step is the instruction at pc (60_exceptions.md R353). -/
theorem step_of_silent (hs : silent s = true) (ha : s.asleep = false) : step s = runInstr s := by
  simp only [silent, Bool.and_eq_true, beq_iff_eq, Bool.not_eq_true'] at hs
  obtain ⟨⟨hin, hhigh⟩, hlow⟩ := hs
  have hheld : s.setHeld false false = s := by
    have hself : s.setHeld s.heldHigh s.heldLow = s := rfl
    rwa [hhigh, hlow] at hself
  have htake : takeInput s = s := by
    unfold takeInput
    rw [hin]
  have hcur : currentInput s = Input.silent := by
    unfold currentInput
    rw [hin]
  unfold step boundary
  rw [htake, hcur, ha, hheld]
  simp only [Input.silent, pendingHigh, pendingLow, hhigh, hlow, Bool.or_false, irqLevel_none]
  rfl

/-- A refused fetch is a refused step. -/
theorem step_of_fetch_refused {r : Refusal} (hs : silent s = true) (ha : s.asleep = false)
    (hf : fetchInstr s = .refused r) : step s = .refused r := by
  rw [step_of_silent hs ha, runInstr, hf, andThen_of_refused]

/-! The fetch -/

theorem fetchInstr_of_not_fetchable (h : fetchable s s.pc = false) :
    fetchInstr s = .refused (.fetchOutsideProgramMemory s.pc) := by
  unfold fetchInstr
  rw [fetchWord_eq, h]
  rfl

theorem fetchInstr_of_second_not_fetchable (h : fetchable s s.pc = true) (h1 : isAssigned (wordAt s s.pc) = true)
    (h2 : isTwoWordFirst (wordAt s s.pc) = true) (hf : fetchable s (s.pc + 2) = false) :
    fetchInstr s = .refused (.fetchOutsideProgramMemory (s.pc + 2)) := by
  unfold fetchInstr
  simp only [fetchWord_eq, h, h1, h2, hf, if_true, andThen_of_next, Bool.not_true, Bool.false_eq_true, if_false,
    andThen_of_refused]

/-- 30_encoding.md R151 in numbers. -/
theorem secondWordOk_iff (w1 w2 : Word) : secondWordOk w1 w2 = true ↔
    w2.toNat / 2 ^ 12 = 0b1111 ∧ (w1.toNat / 2 ^ 8 = 0xEE → w2.toNat / 2 ^ 8 = 0xF0) := by
  have := w1.isLt
  have := w2.isLt
  simp only [secondWordOk, bne, slice_beq, Bool.and_eq_true, Bool.or_eq_true, Bool.not_eq_true', decide_eq_true_eq,
    decide_eq_false_iff_not, BitVec.toNat_ofNat]
  omega

theorem fetchInstr_of_malformed (he : s.cfg.edges = .stop) (h : fetchable s s.pc = true)
    (h1 : isAssigned (wordAt s s.pc) = true) (h2 : isTwoWordFirst (wordAt s s.pc) = true)
    (hf : fetchable s (s.pc + 2) = true) (hbad : secondWordOk (wordAt s s.pc) (wordAt s (s.pc + 2)) = false) :
    fetchInstr s = .refused (.malformedSecondWord s.pc (wordAt s (s.pc + 2))) := by
  unfold fetchInstr
  simp only [fetchWord_eq, h, h1, h2, hf, hbad, he, if_true, andThen_of_next, Bool.not_true, Bool.not_false,
    Bool.false_eq_true, if_false, Bool.and_self, beq_self_eq_true]

/-- Settles O7: the three refusals of `fetchInstr` in its order, R151's fixed bits read as numbers. -/
theorem fetchStops : Obligations.FetchStops := by
  intro s hs ha he
  refine ⟨fun h => step_of_fetch_refused hs ha (fetchInstr_of_not_fetchable h), fun h h1 h2 =>
    ⟨fun hf => step_of_fetch_refused hs ha (fetchInstr_of_second_not_fetchable h h1 h2 hf), fun hf hw => ?_⟩⟩
  have hbad : secondWordOk (wordAt s s.pc) (wordAt s (s.pc + 2)) = false := by
    refine Bool.eq_false_iff.2 fun hok => ?_
    obtain ⟨hF, hEE⟩ := (secondWordOk_iff _ _).1 hok
    rcases hw with hw | ⟨hw1, hw2⟩
    · exact hw hF
    · exact hw2 (hEE hw1)
  exact step_of_fetch_refused hs ha (fetchInstr_of_malformed he h h1 h2 hf hbad)

end Sys2Proof.Machine
end

section
/-! SUPPORT. Core registers as operands: the stack registers (10_state.md R45, R48), PCL and its latches (R42). -/

namespace Sys2Proof.Machine

variable {s s' : State} {t : DataAddr} {r : Sfr}

/-! Reads and writes of a core register -/

/-- A row of R60's table that names a core register. -/
theorem SpecMap.placeOf_core {cfg : Config} (h : SpecMap cfg) (ht : regAt Config.default t = some (.core r)) :
    Machine.placeOf cfg t = .core r := h.placeOf ht

theorem memRead_core (wb : Bool) (hp : placeOf s.cfg t = .core r) (hr : r ≠ .pcl) :
    memRead t wb s = .next ⟨sfrRead r s, s⟩ := by
  rw [memRead_eq]
  simp [readable, valueAt, afterRead, hp, hr]

theorem memRead_pcl (wb : Bool) (hp : placeOf s.cfg t = .core .pcl) (ha : s.cfg.pclAccess = .asR42) :
    memRead t wb s = .next ⟨sfrRead .pcl s, if wb then s else loadLatches s⟩ := by
  rw [memRead_eq]
  cases wb <;> simp [readable, valueAt, afterRead, hp, ha]

theorem writable_core (hp : placeOf s.cfg t = .core r) (hr : r = .pcl → s.cfg.pclAccess = .asR42)
    (h0 : isTos r = true → s.sp ≠ 0) : writable s t = true := by
  have h1 : (r != .pcl || s.cfg.pclAccess != .refuse) = true := by
    by_cases h : r = .pcl <;> simp [h, hr]
  have h2 : (isTos r && s.sp == 0) = false := by
    cases h : isTos r with
    | false => rfl
    | true => exact beq_eq_false_iff_ne.2 (h0 h)
  simp only [writable, readable, hp, h1, h2, Bool.not_false, Bool.and_self]

theorem memWrite_core (v : Byte) (masked : Bool) (hp : placeOf s.cfg t = .core r)
    (hr : r = .pcl → s.cfg.pclAccess = .asR42) (h0 : isTos r = true → s.sp ≠ 0) :
    memWrite t v masked s = .next (sfrWrite r v masked s) := by
  rw [memWrite_of_writable v masked (writable_core hp hr h0), afterWrite, hp]

theorem memWrite_tos_empty (v : Byte) (masked : Bool) (hp : placeOf s.cfg t = .core r) (hr : isTos r = true)
    (h0 : s.sp = 0) : memWrite t v masked s = .refused .tosAccessAtEmptyStack := by
  have hne : r ≠ .pcl := by
    rintro rfl
    nomatch hr
  unfold memWrite
  rw [hp]
  simp [hne, hr, h0]

/-! The stack registers -/

theorem writeStkptr_eq (v : Byte) (s : State) :
    writeStkptr v s = ((s.setSp (v.extractLsb' 0 5)).setStkful (s.stkful && decide (128 ≤ v.toNat))).setStkunf
      (s.stkunf && decide (64 ≤ v.toNat % 128)) := by
  have := v.isLt
  have h7 : v.getLsbD 7 = decide (128 ≤ v.toNat) := getLsbD_top v
  have h6 : v.getLsbD 6 = decide (64 ≤ v.toNat % 128) := by
    rw [getLsbD_eq_decide, decide_eq_decide]
    omega
  rw [writeStkptr, h7, h6]

theorem sfrRead_tos_empty (hr : isTos r = true) (h0 : s.sp = 0) : sfrRead r s = 0 := by
  cases r with
  | tosu | tosh | tosl => simp [sfrRead, State.entry, h0]
  | _ => nomatch hr

/-- With an empty stack a TOS register is no destination and reads 0 (R48). -/
theorem tos_empty_access (v : Byte) (masked : Bool) (hp : placeOf s.cfg t = .core r) (hr : isTos r = true)
    (h0 : s.sp = 0) : memWrite t v masked s = .refused .tosAccessAtEmptyStack ∧ ReadsAs t s 0 := by
  have hne : r ≠ .pcl := fun h => nomatch h ▸ hr
  exact ⟨memWrite_tos_empty v masked hp hr h0, 0, rfl, fun wb => sfrRead_tos_empty hr h0 ▸ memRead_core wb hp hne⟩

theorem tosWith_tosl_toNat (e : BitVec 21) (v : Byte) :
    (tosWith .tosl e v).toNat = 256 * (e.toNat / 256) + v.toNat := by
  have := e.isLt
  change (e.extractLsb' 8 13 ++ v).toNat = _
  rw [append_toNat, slice_toNat]
  omega

theorem tosWith_tosh_toNat (e : BitVec 21) (v : Byte) :
    (tosWith .tosh e v).toNat = 65536 * (e.toNat / 65536) + 256 * v.toNat + e.toNat % 256 := by
  have := e.isLt
  rw [tosWith, append_toNat, append_toNat, slice_toNat, slice_toNat]
  omega

theorem tosWith_tosu_toNat (e : BitVec 21) (v : Byte) :
    (tosWith .tosu e v).toNat = 65536 * (v.toNat % 32) + e.toNat % 65536 := by
  rw [tosWith, append_toNat, slice_toNat, slice_toNat]
  omega

/-- Settles O23: the three TOS registers and STKPTR by their rows of R60, and the written entry in numbers. -/
theorem stackRegistersAsDestinations : Obligations.StackRegistersAsDestinations := by
  intro s v masked hmap
  have hptr : placeOf s.cfg 0xFFC = .core .stkptr := hmap.placeOf_core rfl
  have hu : placeOf s.cfg 0xFFF = .core .tosu := hmap.placeOf_core rfl
  have hh : placeOf s.cfg 0xFFE = .core .tosh := hmap.placeOf_core rfl
  have hl : placeOf s.cfg 0xFFD = .core .tosl := hmap.placeOf_core rfl
  refine ⟨⟨v.extractLsb' 0 5, low_toNat v 5, ?_⟩, fun h0 t ht => ?_, fun h0 => ⟨⟨_, tosWith_tosl_toNat _ v, ?_⟩,
    ⟨_, tosWith_tosh_toNat _ v, ?_⟩, ⟨_, tosWith_tosu_toNat _ v, ?_⟩⟩⟩
  · rw [memWrite_core v masked hptr nofun nofun, ← writeStkptr_eq]
    rfl
  · simp only [List.mem_cons, List.not_mem_nil, or_false] at ht
    rcases ht with rfl | rfl | rfl
    · exact tos_empty_access v masked hu rfl h0
    · exact tos_empty_access v masked hh rfl h0
    · exact tos_empty_access v masked hl rfl h0
  · exact memWrite_core v masked hl nofun fun _ => h0
  · exact memWrite_core v masked hh nofun fun _ => h0
  · exact memWrite_core v masked hu nofun fun _ => h0

/-! PCL -/

theorem pc_add_two_toNat (s : State) : (s.pc + 2).toNat = (s.pc.toNat + 2) % 2 ^ 21 := BitVec.toNat_add _ _

theorem sfrRead_pcl_toNat (s : State) : (sfrRead .pcl s).toNat = (s.pc.toNat + 2) % 256 := by
  rw [sfrRead, slice_toNat, pc_add_two_toNat]
  omega

theorem pclTarget_toNat (s : State) (v : Byte) :
    (pclTarget s v).toNat = 65536 * s.pclatu.toNat + 256 * s.pclath.toNat + 2 * (v.toNat / 2) := by
  have := v.isLt
  rw [pclTarget, append_toNat, append_toNat, append_toNat, slice_toNat]
  simp only [BitVec.toNat_ofNat]
  omega

/-- Reading PCL, in numbers (R42 (a), (b)). -/
theorem memRead_pcl_numbers (wb : Bool) (hp : placeOf s.cfg t = .core .pcl) (ha : s.cfg.pclAccess = .asR42) :
    ∃ (b h : Byte) (u : BitVec 5), b.toNat = (s.pc.toNat + 2) % 256 ∧ h.toNat = (s.pc.toNat + 2) / 256 % 256 ∧
      u.toNat = (s.pc.toNat + 2) / 65536 % 32 ∧ memRead t wb s = .next ⟨b, if wb then s else s.setLatches u h⟩ := by
  refine ⟨_, (s.pc + 2).extractLsb' 8 8, (s.pc + 2).extractLsb' 16 5, sfrRead_pcl_toNat s, ?_, ?_,
    memRead_pcl wb hp ha⟩
  · rw [slice_toNat, pc_add_two_toNat]
    omega
  · rw [slice_toNat, pc_add_two_toNat]
    omega

/-! An operand that names a register itself -/

section
variable {ea : DataAddr}

theorem virtAt_of_core {cfg : Config} (h : regAt cfg t = some (.core r)) : virtAt cfg t = none := by
  rw [virtAt, h]

theorem targetOf_direct (h : virtAt s.cfg ea = none) : targetOf ea s = ea := by rw [targetOf, h]

theorem resolvable_direct (h : virtAt s.cfg ea = none) : resolvable ea s = true := by rw [resolvable, h]

theorem afterResolve_direct (h : virtAt s.cfg ea = none) : afterResolve ea s = s := by rw [afterResolve, h]

end

/-- The operand that a direct address of PCL is, to an instruction that writes it back. -/
theorem operand_pcl {f : Byte} {a : RamSel} (hea : ea f a s = t) (hp : placeOf s.cfg t = .core .pcl)
    (ha : s.cfg.pclAccess = .asR42) :
    fTarget f a s = t ∧ fValue f a s = sfrRead .pcl s ∧ fState f a true s = s ∧ canUse f .f a s = true := by
  have hv : virtAt s.cfg t = none := virtAt_of_core (Machine.placeOf_core.1 hp).2
  have ht : fTarget f a s = t := by rw [fTarget, hea, targetOf_direct hv]
  have hr : afterResolve (ea f a s) s = s := by rw [hea, afterResolve_direct hv]
  have hw : writable s t = true := writable_core hp (fun _ => ha) nofun
  have hrd : readable s.cfg t = true := (Bool.and_eq_true _ _ ▸ hw : _ ∧ _).1
  refine ⟨ht, ?_, ?_, ?_⟩
  · rw [fValue, ht, hr, valueAt, hp]
  · rw [fState, ht, hr, afterRead, if_neg (by simp)]
  · rw [canUse, canRead, canWrite, ht, hea, resolvable_direct hv, hw, hrd]
    rfl

theorem ea_access_high {f : Byte} (h : s.cfg.accessSplit.toNat ≤ f.toNat) : ea f .access s = 0xF#4 ++ f :=
  if_neg (Nat.not_lt.2 h)

/-- ADDWF PCL: a jump by the sum (R42 (c)). -/
theorem exec_addwf_pcl {f : Byte} {a : RamSel} (hea : ea f a s = t) (hp : placeOf s.cfg t = .core .pcl)
    (ha : s.cfg.pclAccess = .asR42) :
    exec (.addwf f .f a) s = .next ((s.setFlags (sumFlags s.w (sfrRead .pcl s) false)).setPc
      (pclTarget s (sumByte s.w (sfrRead .pcl s) false))) := by
  obtain ⟨ht, hval, hst, huse⟩ := operand_pcl hea hp ha
  obtain ⟨s', hx, ho⟩ := byteD_of_canUse (masked := true) (fn := fun v w _ => add8 w v false) huse
  have hexec : exec (.addwf f .f a) s = .next s' := hx
  have hw : memWrite t (sumByte s.w (sfrRead .pcl s) false) true
      ((s.setFlags (sumFlags s.w (sfrRead .pcl s) false)).setPc (s.pc + 2)) = .next s' := by
    simpa only [ByteOutcome, ht, hval, hst, add8_eq] using ho
  have hjump := memWrite_core (s := (s.setFlags (sumFlags s.w (sfrRead .pcl s) false)).setPc (s.pc + 2))
    (sumByte s.w (sfrRead .pcl s) false) true hp (fun _ => ha) nofun
  exact hexec.trans (hw.symm.trans hjump)

/-! Who leaves the latches alone -/

theorem pushThen_latches {v : BitVec 21} {k : State → Res State} (he : s.cfg.edges = .stop)
    (h : pushThen v s k = .next s')
    (hk : ∀ b, k b = .next s' → s'.pclath = b.pclath ∧ s'.pclatu = b.pclatu) :
    s'.pclath = s.pclath ∧ s'.pclatu = s.pclatu := by
  rcases pushThen_frame h with ⟨b, hb, h⟩ | ⟨hh, -⟩
  · exact hb.latches.1 ▸ hb.latches.2 ▸ hk b h
  · nomatch he.symm.trans hh

theorem popThen_latches {k : ProgAddr → State → Res State} (he : s.cfg.edges = .stop) (h : popThen s k = .next s')
    (hk : ∀ p b, k p b = .next s' → s'.pclath = b.pclath ∧ s'.pclatu = b.pclatu) :
    s'.pclath = s.pclath ∧ s'.pclatu = s.pclatu := by
  rcases popThen_frame h with ⟨p, b, -, hb, h⟩ | ⟨hh, -⟩
  · exact hb.latches.1 ▸ hb.latches.2 ▸ hk p b h
  · nomatch he.symm.trans hh

theorem branchIf_latches {cond : Bool} {n : BitVec 8} (h : branchIf cond n s = .next s') :
    s'.pclath = s.pclath ∧ s'.pclatu = s.pclatu := by
  obtain rfl := Host.Outcome.next.inj h
  cases cond <;> exact ⟨rfl, rfl⟩

theorem reenable_latches (s : State) : (reenable s).pclath = s.pclath ∧ (reenable s).pclatu = s.pclatu := by
  unfold reenable
  split <;> exact ⟨rfl, rfl⟩

/-- The jumps, calls and returns of R42 (d). -/
theorem exec_jump_latches {i : Instr} (he : s.cfg.edges = .stop) (h : exec i s = .next s')
    (hi : (∃ k fast, i = .call k fast) ∨ (∃ n, i = .rcall n) ∨ (∃ k, i = .goto k) ∨ (∃ n, i = .bra n) ∨
      (∃ n, i ∈ [Instr.bc n, .bn n, .bnc n, .bnn n, .bnov n, .bnz n, .bov n, .bz n]) ∨
      (∃ fast, i = .retn fast) ∨ (∃ fast, i = .retfie fast) ∨ (∃ k, i = .retlw k)) :
    s'.pclath = s.pclath ∧ s'.pclatu = s.pclatu := by
  rcases hi with ⟨k, fast, rfl⟩ | ⟨n, rfl⟩ | ⟨k, rfl⟩ | ⟨n, rfl⟩ | ⟨n, hn⟩ | ⟨fast, rfl⟩ | ⟨fast, rfl⟩ | ⟨k, rfl⟩
  · refine pushThen_latches he (exec_call s k fast ▸ h) fun b hb => ?_
    obtain rfl := Host.Outcome.next.inj hb
    cases fast <;> exact ⟨rfl, rfl⟩
  · refine pushThen_latches he (exec_rcall s n ▸ h) fun b hb => ?_
    obtain rfl := Host.Outcome.next.inj hb
    exact ⟨rfl, rfl⟩
  · obtain rfl := Host.Outcome.next.inj h
    exact ⟨rfl, rfl⟩
  · obtain rfl := Host.Outcome.next.inj h
    exact ⟨rfl, rfl⟩
  · simp only [List.mem_cons, List.not_mem_nil, or_false] at hn
    rcases hn with rfl | rfl | rfl | rfl | rfl | rfl | rfl | rfl <;> exact branchIf_latches h
  · refine popThen_latches he (exec_retn s fast ▸ h) fun p b hb => ?_
    obtain rfl := Host.Outcome.next.inj hb
    cases fast <;> exact ⟨rfl, rfl⟩
  · refine popThen_latches he (exec_retfie s fast ▸ h) fun p b hb => ?_
    obtain rfl := Host.Outcome.next.inj hb
    cases fast <;> exact reenable_latches (b.setPc p)
  · refine popThen_latches (s := s.setW k) he (exec_retlw s k ▸ h) fun p b hb => ?_
    obtain rfl := Host.Outcome.next.inj hb
    exact ⟨rfl, rfl⟩

theorem enterInterrupt_latches {level : Level} (he : s.cfg.edges = .stop) (h : enterInterrupt level s = .next s') :
    s'.pclath = s.pclath ∧ s'.pclatu = s.pclatu := by
  refine pushThen_latches he h fun b hb => ?_
  obtain rfl := Host.Outcome.next.inj hb
  split <;> exact ⟨rfl, rfl⟩

/-- Settles O24: PCL by its row of R60, ADDWF PCL by `exec_addwf_pcl`, the latches by the frames of push and pop. -/
theorem programCounterLow : Obligations.ProgramCounterLow := by
  intro s hmap ha
  have hp : placeOf s.cfg 0xFF9 = .core .pcl := hmap.placeOf_core rfl
  refine ⟨fun wb => memRead_pcl_numbers wb hp ha,
    fun v masked => ⟨_, pclTarget_toNat s v, memWrite_core v masked hp (fun _ => ha) nofun⟩, fun hsplit => ?_,
    fun i s' he h hi => exec_jump_latches he h hi, fun level s' he h => enterInterrupt_latches he h⟩
  have hea : ea 0xF9 .access s = 0xFF9 := ea_access_high hsplit
  have hlow : sfrRead .pcl s = BitVec.ofNat 8 (s.pc.toNat + 2) :=
    BitVec.eq_of_toNat_eq (by rw [sfrRead_pcl_toNat, BitVec.toNat_ofNat])
  refine ⟨_, ?_, hlow ▸ exec_addwf_pcl hea hp ha⟩
  rw [pclTarget_toNat, sumByte_toNat, BitVec.toNat_ofNat, Bool.toNat_false]
  omega

end Sys2Proof.Machine
end

section
/-! SUPPORT. Frames of every step and of every instruction: program memory and the parameters (20_memory.md R91, R118),
data memory (R103, R105), LWRT, TO and PD (10_state.md R53). -/

namespace Sys2Proof.Machine

variable {i : Instr} {s s' : State}

/-! Program memory and the parameters -/

/-- The two states have the same program memory and the same parameters. -/
structure SameProgram (s b : State) : Prop where
  pm : b.pm = s.pm
  cfg : b.cfg = s.cfg

theorem SameProgram.trans {b : State} (h : SameProgram s b) (h' : SameProgram b s') : SameProgram s s' :=
  ⟨h'.pm.trans h.pm, h'.cfg.trans h.cfg⟩

theorem SameStorage.sameProgram {b : State} (h : SameStorage s b) : SameProgram s b := ⟨h.pm, h.cfg⟩

theorem memWrite_sameProgram {t : DataAddr} {v : Byte} {masked : Bool} (h : memWrite t v masked s = .next s') :
    SameProgram s s' := by
  obtain ⟨hpm, hcfg⟩ := (memWrite_frame h).fixed
  exact ⟨hpm, hcfg⟩

theorem exec_sameProgram (h : exec i s = .next s') : SameProgram s s' := by
  cases exec_ran h with
  | quiet _ hq => exact hq.sameProgram
  | wrote _ hq _ hw => exact hq.sameProgram.trans (memWrite_sameProgram hw)
  | wroteAndSkipped _ hq _ _ hw => exact hq.sameProgram.trans { memWrite_sameProgram hw with }
  | reset _ hr _ => exact hr.sameProgram

theorem runInstr_sameProgram (h : runInstr s = .next s') : SameProgram s s' := by
  obtain ⟨r, -, h⟩ := andThen_eq_next.1 h
  cases r with
  | some i => exact exec_sameProgram h
  | none =>
    obtain rfl := Host.Outcome.next.inj h
    exact ⟨rfl, rfl⟩

theorem enterInterrupt_sameProgram {level : Level} (h : enterInterrupt level s = .next s') : SameProgram s s' := by
  rcases pushThen_frame h with ⟨b, hb, h⟩ | ⟨-, b, hb, rfl⟩
  · obtain rfl := Host.Outcome.next.inj h
    refine hb.steady.sameProgram.trans ?_
    split <;> exact ⟨rfl, rfl⟩
  · exact hb.steady.sameProgram.trans ⟨rfl, rfl⟩

theorem takeInput_sameProgram (s : State) : SameProgram s (takeInput s) := by
  unfold takeInput
  split <;> exact ⟨rfl, rfl⟩

/-- Everything a boundary can do when it answers next. -/
theorem boundary_next {j : Input} (h : boundary j s = .next s') :
    (∃ kind, s' = externalReset kind s) ∨ s' = watchdogReset s ∨ s' = s ∨
      (s.asleep = true ∧ runInstr (wakeUp j s) = .next s') ∨
      (∃ level, enterInterrupt level (s.setHeld false false) = .next s') ∨
      runInstr (s.setHeld false false) = .next s' := by
  unfold boundary at h
  split at h
  next kind _ => exact .inl ⟨kind, (Host.Outcome.next.inj h).symm⟩
  next =>
    split at h
    next hasleep =>
      split at h
      · exact .inr (.inr (.inr (.inl ⟨hasleep, h⟩)))
      · exact .inr (.inr (.inl (Host.Outcome.next.inj h).symm))
    next =>
      split at h
      · exact .inr (.inl (Host.Outcome.next.inj h).symm)
      · split at h
        next level _ => exact .inr (.inr (.inr (.inr (.inl ⟨level, h⟩))))
        next => exact .inr (.inr (.inr (.inr (.inr h))))

theorem boundary_sameProgram {j : Input} (h : boundary j s = .next s') : SameProgram s s' := by
  rcases boundary_next h with ⟨kind, rfl⟩ | rfl | rfl | ⟨-, h⟩ | ⟨level, h⟩ | h
  · exact (externalReset_restarted kind s).sameProgram
  · exact ⟨rfl, rfl⟩
  · exact ⟨rfl, rfl⟩
  · exact { runInstr_sameProgram h with }
  · exact { enterInterrupt_sameProgram h with }
  · exact { runInstr_sameProgram h with }

/-- Settles O10: every branch of a boundary keeps program memory and the parameters, and an instruction's only store is
its data write, which reaches neither. -/
theorem programMemoryImmutable : Obligations.ProgramMemoryImmutable := by
  intro s s' h
  have hkept := (takeInput_sameProgram s).trans (boundary_sameProgram h)
  exact ⟨hkept.pm, hkept.cfg⟩

/-! Data memory -/

theorem SameStorage.dmByte {b : State} (h : SameStorage s b) (a : DataAddr) : b.dmByte a = s.dmByte a := by
  rw [State.dmByte, h.dm, State.dmByte]

/-- Settles O13: apart from its data write at `destAddr` an instruction keeps data memory (`exec_ran`), and the write
keeps every other address. -/
theorem dataMemoryFrame : Obligations.DataMemoryFrame := by
  intro i s s' h a ha
  cases exec_ran h with
  | quiet _ hq => exact hq.dmByte a
  | wrote ht hq _ hw | wroteAndSkipped ht hq _ _ hw =>
    have hne : a ≠ _ := fun e => ha (e ▸ ht)
    exact ((memWrite_frame hw).dm a hne).trans (hq.dmByte a)
  | reset _ hr _ => exact hr.dmByte a

/-! LWRT, TO and PD -/

/-- A data write can set LWRT and not clear it (20_memory.md R105). -/
theorem memWrite_keepsLwrt {t : DataAddr} {v : Byte} {masked : Bool} (h : memWrite t v masked s = .next s')
    (hl : s.lwrt = true) : s'.lwrt = true := by
  by_cases hp : placeOf s.cfg t = .core .rcon
  · obtain ⟨-, rfl⟩ := memWrite_eq_next.1 h
    rw [afterWrite, hp]
    simp [sfrWrite, writeRcon, hl]
  · obtain ⟨-, hlwrt, -⟩ := (memWrite_frame h).rcon hp
    exact hlwrt.trans hl

/-- Settles O14: apart from its data write an instruction keeps LWRT, and TO and PD unless it is CLRWDT or SLEEP
(`exec_ran`); the write can only set LWRT and reaches neither TO nor PD. -/
theorem lwrtAndPowerBitsFrame : Obligations.LwrtAndPowerBitsFrame := by
  intro i s s' h
  cases exec_ran h with
  | quiet _ hq => exact ⟨hq.lwrt.trans, hq.power⟩
  | wrote _ hq _ hw | wroteAndSkipped _ hq _ _ hw =>
    obtain ⟨hto, hpd⟩ := (memWrite_frame hw).power
    have hlwrt := memWrite_keepsLwrt hw
    refine ⟨fun hl => hlwrt (hq.lwrt.trans hl), fun h1 h2 => ?_⟩
    obtain ⟨hto', hpd'⟩ := hq.power h1 h2
    exact ⟨hto.trans hto', hpd.trans hpd'⟩
  | reset _ hr hpower => exact ⟨hr.lwrt.trans, fun _ _ => hpower⟩

end Sys2Proof.Machine
end

section
/-! SUPPORT. Data addresses: `EA(f, a)` (20_memory.md R100), the indirect registers and their targets (R102, R107). -/

namespace Sys2Proof.Machine

variable {s : State} {cfg : Config} {q : Virt} {t va : DataAddr}

theorem mem_triple {α : Type} {x a b c : α} : x ∈ [a, b, c] ↔ x = a ∨ x = b ∨ x = c := by
  simp only [List.mem_cons, List.not_mem_nil, or_false]

theorem ea_access_low {f : Byte} (h : f.toNat < s.cfg.accessSplit.toNat) :
    ea f .access s = 0x0#4 ++ f := if_pos h

/-- Settles O17: a concatenation as a number. -/
theorem effectiveAddress : Obligations.EffectiveAddress := by
  intro f s
  refine ⟨fun h => ?_, fun h => ?_, append_toNat s.bsr f⟩
  · rw [ea_access_low h, append_toNat]
    exact Nat.zero_add _
  · rw [ea_access_high h]
    exact append_toNat _ f

/-! The rows of R60's table -/

/-- An address names nothing, or it is the address of a row. -/
theorem regAt_none_or_row (t : DataAddr) : regAt Config.default t = none ∨ ∃ row ∈ r60Map, row.addr = t := by
  unfold regAt
  cases hfind : Config.default.sfrMap.find? (fun row => row.addr == t) with
  | none => exact .inl rfl
  | some row =>
    have haddr := List.find?_some hfind
    exact .inr ⟨row, List.mem_of_find?_eq_some hfind, beq_iff_eq.1 haddr⟩

theorem regAt_of_row : ∀ row ∈ r60Map, regAt Config.default row.addr = some row.name := by decide

/-- The register at an address is the one a row of the table gives it. -/
theorem regAt_default_iff {n : SfrName} : regAt Config.default t = some n ↔ ⟨t, n⟩ ∈ r60Map := by
  refine ⟨fun h => ?_, regAt_of_row ⟨t, n⟩⟩
  rcases regAt_none_or_row t with hnone | ⟨row, hrow, rfl⟩
  · nomatch hnone.symm.trans h
  · obtain rfl := Option.some.inj ((regAt_of_row row hrow).symm.trans h)
    exact hrow

/-- The address is one of the fifteen of the indirect registers, five for each FSR (10_state.md R60). -/
def InVirtualRange (t : DataAddr) : Prop :=
  (0xFDB ≤ t.toNat ∧ t.toNat ≤ 0xFDF) ∨ (0xFE3 ≤ t.toNat ∧ t.toNat ≤ 0xFE7) ∨ (0xFEB ≤ t.toNat ∧ t.toNat ≤ 0xFEF)

/-- Those fifteen addresses, listed. -/
def virtualAddrs : List DataAddr :=
  [0xFEF, 0xFEE, 0xFED, 0xFEC, 0xFEB, 0xFE7, 0xFE6, 0xFE5, 0xFE4, 0xFE3, 0xFDF, 0xFDE, 0xFDD, 0xFDC, 0xFDB]

theorem mem_virtualAddrs_iff : t ∈ virtualAddrs ↔ InVirtualRange t := by
  simp only [virtualAddrs, InVirtualRange, List.mem_cons, List.not_mem_nil, or_false]
  bv_omega

theorem mem_virtualAddrs_iff_row : t ∈ virtualAddrs ↔ ∃ q, regAt Config.default t = some (.virt q) := by
  simp [regAt_default_iff, r60Map, virtualAddrs, exists_or]

/-- The indirect registers are the rows at those addresses. -/
theorem exists_virtAt_iff (h : cfg.sfrMap = r60Map) (t : DataAddr) :
    (∃ q, virtAt cfg t = some q) ↔ InVirtualRange t := by
  simp only [virtAt_eq_some, regAt_of_table h, ← mem_virtualAddrs_iff_row, mem_virtualAddrs_iff]

/-! Targets that R107 refuses -/

/-- The address of FSRiL (10_state.md R60). -/
def fsrLowAddr : FsrIdx → DataAddr
  | .f0 => 0xFE9
  | .f1 => 0xFE1
  | .f2 => 0xFD9

/-- The address of FSRiH (10_state.md R60). -/
def fsrHighAddr : FsrIdx → DataAddr
  | .f0 => 0xFEA
  | .f1 => 0xFE2
  | .f2 => 0xFDA

theorem regAt_fsrl_iff (i : FsrIdx) : regAt Config.default t = some (.core (.fsrl i)) ↔ t = fsrLowAddr i := by
  cases i <;> simp [regAt_default_iff, r60Map, fsrLowAddr]

theorem regAt_fsrh_iff (i : FsrIdx) : regAt Config.default t = some (.core (.fsrh i)) ↔ t = fsrHighAddr i := by
  cases i <;> simp [regAt_default_iff, r60Map, fsrHighAddr]

/-- The twelve addresses of R107 are the rows of the indirect registers other than INDF. -/
theorem mem_otherIndirect_iff :
    t ∈ otherIndirect ↔ ∃ q, regAt Config.default t = some (.virt q) ∧ q.form ≠ .indf := by
  simp [regAt_default_iff, r60Map, otherIndirect, or_and_right, exists_or]

/-- R107: the twelve other indirect registers, and for a form that modifies its FSR the two bytes of that FSR. -/
theorem targetUndefined_iff (h : cfg.sfrMap = r60Map) (q : Virt) (t : DataAddr) :
    targetUndefined cfg q t = true ↔
      t ∈ otherIndirect ∨ (modifiesFsr q.form = true ∧ (t = fsrLowAddr q.idx ∨ t = fsrHighAddr q.idx)) := by
  rw [mem_otherIndirect_iff, ← regAt_fsrl_iff, ← regAt_fsrh_iff, targetUndefined, regAt_of_table h]
  rcases regAt Config.default t with _ | (r | q') <;> simp

/-! Resolving an indirect address -/

theorem virtAt_of_row (h : cfg.sfrMap = r60Map) (hrow : regAt Config.default va = some (.virt q)) :
    virtAt cfg va = some q := virtAt_eq_some.2 ((regAt_of_table h va).trans hrow)

theorem targetOf_virt (hv : virtAt s.cfg va = some q) :
    targetOf va s = indirectTarget q.form (s.fsr q.idx) s.w := by rw [targetOf, hv]

theorem afterResolve_virt (hv : virtAt s.cfg va = some q) :
    afterResolve va s = s.setFsr q.idx (indirectFsr q.form (s.fsr q.idx)) := by rw [afterResolve, hv]

theorem resolvable_virt (hv : virtAt s.cfg va = some q) :
    resolvable va s = !targetUndefined s.cfg q (targetOf va s) := by rw [resolvable, targetOf, hv]

theorem resolve_direct (h : virtAt s.cfg va = none) : resolve va s = .next ⟨va, s⟩ := by rw [resolve, h]

theorem resolve_refused (hv : virtAt s.cfg va = some q) (h : targetUndefined s.cfg q (targetOf va s) = true) :
    resolve va s = .refused (.indirectTargetUndefined va (targetOf va s)) := by
  rw [resolve_eq, resolvable_virt hv, h]
  rfl

/-- R102 where R107 does not refuse the target. -/
theorem resolve_indirect (h : s.cfg.sfrMap = r60Map) (hrow : regAt Config.default va = some (.virt q))
    (ht : indirectTarget q.form (s.fsr q.idx) s.w = t) (hother : t ∉ otherIndirect)
    (hown : modifiesFsr q.form = true → t ≠ fsrLowAddr q.idx ∧ t ≠ fsrHighAddr q.idx) :
    resolve va s = .next ⟨t, s.setFsr q.idx (indirectFsr q.form (s.fsr q.idx))⟩ := by
  have hv := virtAt_of_row h hrow
  have hdef : ¬ targetUndefined s.cfg q t = true := by
    rw [targetUndefined_iff h]
    rintro (hmem | ⟨hmod, hlow | hhigh⟩)
    · exact hother hmem
    · exact (hown hmod).1 hlow
    · exact (hown hmod).2 hhigh
  rw [resolve_eq, resolvable_virt hv, targetOf_virt hv, ht, afterResolve_virt hv, Bool.eq_false_iff.2 hdef]
  rfl

theorem indirectFsr_unmodified {form : Indirect} (h : modifiesFsr form = false) (x : BitVec 12) :
    indirectFsr form x = x := by
  cases form with
  | indf | plusw => rfl
  | postinc | postdec | preinc => nomatch h

/-- R102 for the forms that leave their FSR, INDF and PLUSW. -/
theorem resolve_indirect_unmodified (h : s.cfg.sfrMap = r60Map) (hrow : regAt Config.default va = some (.virt q))
    (hmod : modifiesFsr q.form = false) (ht : indirectTarget q.form (s.fsr q.idx) s.w = t)
    (hother : t ∉ otherIndirect) :
    resolve va s = .next ⟨t, s⟩ := by
  rw [resolve_indirect h hrow ht hother (fun hm => nomatch hm.symm.trans hmod), indirectFsr_unmodified hmod,
    State.setFsr_self]

/-- The target of PLUSW: the FSR plus WREG as a signed number, modulo 4096. -/
theorem add_signExtend_toNat (x : BitVec 12) (v : Byte) :
    ((x + v.signExtend 12).toNat : Int) = (x.toNat + v.toInt) % 4096 := by
  rw [BitVec.toNat_add, BitVec.signExtend, BitVec.toNat_ofInt]
  omega

/-- Settles O18: each form by its rows of R60 (`resolve_indirect`); an address outside the fifteen names no virtual
register. -/
theorem indirectForms : Obligations.IndirectForms := by
  intro s h
  refine ⟨fun p hp ho => ?_, fun p hp ho hlow hhigh => ?_, fun p hp ho hlow hhigh => ?_, fun p hp ho hlow hhigh => ?_,
    fun p hp t ht ho => ?_, fun ea h0 h1 h2 => ?_⟩
  · rcases mem_triple.1 hp with rfl | rfl | rfl <;>
      exact resolve_indirect_unmodified h (q := ⟨.indf, _⟩) rfl rfl rfl ho
  · rcases mem_triple.1 hp with rfl | rfl | rfl <;>
      exact resolve_indirect h (q := ⟨.postinc, _⟩) rfl rfl ho fun _ => ⟨hlow, hhigh⟩
  · rcases mem_triple.1 hp with rfl | rfl | rfl <;>
      exact resolve_indirect h (q := ⟨.postdec, _⟩) rfl rfl ho fun _ => ⟨hlow, hhigh⟩
  · rcases mem_triple.1 hp with rfl | rfl | rfl <;>
      exact resolve_indirect h (q := ⟨.preinc, _⟩) rfl rfl ho fun _ => ⟨hlow, hhigh⟩
  · have htarget : s.fsr p.1 + s.w.signExtend 12 = t :=
      BitVec.eq_of_toNat_eq (Int.ofNat_inj.1 ((add_signExtend_toNat _ _).trans ht.symm))
    rcases mem_triple.1 hp with rfl | rfl | rfl <;>
      exact resolve_indirect_unmodified h (q := ⟨.plusw, _⟩) rfl rfl htarget ho
  · refine resolve_direct (Option.eq_none_iff_forall_ne_some.2 fun q hq => ?_)
    exact (exists_virtAt_iff h ea).1 ⟨q, hq⟩ |>.elim h0 (Or.elim · h1 h2)

/-! INDFn as a target -/

/-- INDF0, INDF1, INDF2 (R107). -/
theorem placeOf_indf (h : SpecMap cfg) (ht : t ∈ [0xFEF#12, 0xFE7#12, 0xFDF#12]) : placeOf cfg t = .virt := by
  rcases mem_triple.1 ht with rfl | rfl | rfl
  · exact h.placeOf (n := .virt ⟨.indf, .f0⟩) rfl
  · exact h.placeOf (n := .virt ⟨.indf, .f1⟩) rfl
  · exact h.placeOf (n := .virt ⟨.indf, .f2⟩) rfl

theorem memRead_virt (wb : Bool) (hp : placeOf s.cfg t = .virt) : memRead t wb s = .next ⟨0, s⟩ := by
  rw [memRead, hp]

theorem memWrite_virt (v : Byte) (masked : Bool) (hp : placeOf s.cfg t = .virt) :
    memWrite t v masked s = .next s := by
  rw [memWrite, hp]

theorem afterResolve_cfg (ea : DataAddr) (s : State) : (afterResolve ea s).cfg = s.cfg := by
  rw [(afterResolve_frame ea s).eq]

/-- The operand whose target is INDFn reads 0. -/
theorem operand_virt {f : Byte} {a : RamSel} (hr : resolvable (ea f a s) s = true)
    (hp : placeOf s.cfg (fTarget f a s) = .virt) : canUse f .w a s = true ∧ fValue f a s = 0 := by
  constructor
  · simp [canUse, canRead, readable, hr, hp]
  · simp [fValue, valueAt, afterResolve_cfg, hp]

/-- MOVF of an operand that reads 0 (20_memory.md R107, 40_byte_oriented.md R216). -/
theorem exec_movf_zero {f : Byte} {a : RamSel} (huse : canUse f .w a s = true) (hval : fValue f a s = 0) :
    ∃ s', exec (.movf f .w a) s = .next s' ∧ s'.w = 0 ∧ s'.flags.z = true ∧ s'.flags.n = false := by
  obtain ⟨s', hx, ho⟩ := byteD_of_canUse (masked := true) (fn := fun v _ fl => (v, setNZ v fl)) huse
  rw [hval] at ho
  obtain rfl := ho
  exact ⟨_, hx, rfl, rfl, rfl⟩

/-! Targets that are refused -/

/-- A form that modifies its FSR does not reach that FSR's own bytes (R107). -/
theorem resolve_ownFsr_refused (h : s.cfg.sfrMap = r60Map) (hrow : regAt Config.default va = some (.virt q))
    (hmod : modifiesFsr q.form = true) (ht : targetOf va s = fsrLowAddr q.idx ∨ targetOf va s = fsrHighAddr q.idx) :
    resolve va s = .refused (.indirectTargetUndefined va (targetOf va s)) :=
  resolve_refused (virtAt_of_row h hrow) ((targetUndefined_iff h q _).2 (.inr ⟨hmod, ht⟩))

/-- Settles O19: INDFn is a place that reads 0 and keeps nothing; the refusals are R107's, in `targetUndefined_iff`. -/
theorem indirectTargets : Obligations.IndirectTargets := by
  intro s h
  refine ⟨fun t ht v flag => ?_, fun f a hr ht => ?_, fun ea hea ho => ?_, fun p hp ea hea ht => ?_⟩
  · have hp := placeOf_indf h ht
    exact ⟨memRead_virt flag hp, memWrite_virt v flag hp⟩
  · obtain ⟨huse, hval⟩ := operand_virt hr (placeOf_indf h ht)
    exact exec_movf_zero huse hval
  · obtain ⟨q, hv⟩ := (exists_virtAt_iff h.table ea).2 hea
    exact resolve_refused hv ((targetUndefined_iff h.table q _).2 (.inl ho))
  · rcases mem_triple.1 hp with rfl | rfl | rfl <;>
    · rcases mem_triple.1 hea with rfl | rfl | rfl
      · exact resolve_ownFsr_refused h.table (q := ⟨.postinc, _⟩) rfl rfl ht
      · exact resolve_ownFsr_refused h.table (q := ⟨.postdec, _⟩) rfl rfl ht
      · exact resolve_ownFsr_refused h.table (q := ⟨.preinc, _⟩) rfl rfl ht

end Sys2Proof.Machine
end

section
/-! SUPPORT. What every data address reads as and what a write to it leaves (20_memory.md R104 to R106, R108). -/

namespace Sys2Proof.Machine

variable {s s' : State} {t : DataAddr} {r : Sfr}

/-! General-purpose RAM, and the addresses behind P_PERIPH -/

theorem memRead_gpr (wb : Bool) (hg : gprOk s.cfg t = true) :
    memRead t wb s = .next ⟨Memory.read .data s.dm t.toNat, s⟩ := by
  rw [memRead, placeOf_gpr.2 hg]
  rfl

theorem memWrite_gpr (v : Byte) (masked : Bool) (hg : gprOk s.cfg t = true) :
    memWrite t v masked s = .next (s.setDm (Memory.write .data s.dm t.toNat v)) := by
  rw [memWrite, placeOf_gpr.2 hg]

theorem memRead_unmapped_refused (wb : Bool) (hu : unmapped s.cfg t = true) (hp : s.cfg.periph = .refuse) :
    memRead t wb s = .refused (.dataAddressNotModelled t) := by
  rw [memRead, placeOf_outside.2 hu]
  simp only [hp]

theorem memRead_unmapped_ports (wb : Bool) (hu : unmapped s.cfg t = true) (hp : s.cfg.periph = .ports) :
    memRead t wb s = .next ⟨Memory.read .periph s.periphIn t.toNat, s⟩ := by
  rw [memRead, placeOf_outside.2 hu]
  simp only [hp]

theorem memWrite_unmapped_refused (v : Byte) (masked : Bool) (hu : unmapped s.cfg t = true)
    (hp : s.cfg.periph = .refuse) : memWrite t v masked s = .refused (.dataAddressNotModelled t) := by
  rw [memWrite, placeOf_outside.2 hu]
  simp only [hp]

theorem memWrite_unmapped_ports (v : Byte) (masked : Bool) (hu : unmapped s.cfg t = true)
    (hp : s.cfg.periph = .ports) :
    memWrite t v masked s = .next { s with periphOut := Memory.write .periph s.periphOut t.toNat v } := by
  rw [memWrite, placeOf_outside.2 hu]
  simp only [hp]

/-- Settles O25: a write to RAM is one `Memory.write`, which is read back and keeps every other byte. -/
theorem gprReadAfterWrite : Obligations.GprReadAfterWrite := by
  intro s s' t v masked hwf hg h
  obtain rfl := Host.Outcome.next.inj ((memWrite_gpr v masked hg).symm.trans h)
  refine ⟨fun wb => ?_, (memWrite_frame h).dm, Memory.write_wf _ _ _ hwf, rfl⟩
  have hread : Memory.read .data (Memory.write .data s.dm t.toNat v) t.toNat = v := Memory.read_write_same _ _ _ hwf
  have hplace := memRead_gpr (s := s.setDm (Memory.write .data s.dm t.toNat v)) wb hg
  rwa [State.setDm_dm, hread] at hplace

/-! Core registers as numbers -/

/-- A core register other than PCL reads as its number and the read changes nothing (R104). -/
theorem readsAs_core {n : Nat} (h : SpecMap s.cfg) (ht : regAt Config.default t = some (.core r)) (hr : r ≠ .pcl)
    (hn : (sfrRead r s).toNat = n) : ReadsAs t s n :=
  ⟨sfrRead r s, hn, fun wb => memRead_core wb (h.placeOf_core ht) hr⟩

theorem statusByte_toNat (fl : Flags) : (statusByte fl).toNat =
    16 * fl.n.toNat + 8 * fl.ov.toNat + 4 * fl.z.toNat + 2 * fl.dc.toNat + fl.c.toNat := by
  simp only [statusByte, append_toNat, bit_toNat, BitVec.toNat_ofNat]
  omega

theorem sfrRead_stkptr_toNat (s : State) :
    (sfrRead .stkptr s).toNat = 128 * s.stkful.toNat + 64 * s.stkunf.toNat + s.sp.toNat := by
  simp only [sfrRead, append_toNat, bit_toNat, BitVec.toNat_ofNat]
  omega

theorem sfrRead_intcon_toNat (s : State) :
    (sfrRead .intcon s).toNat = 128 * s.gieh.toNat + 64 * s.giel.toNat + s.intcon50.toNat := by
  simp only [sfrRead, append_toNat, bit_toNat]
  omega

theorem sfrRead_rcon_toNat (s : State) : (sfrRead .rcon s).toNat =
    128 * s.ipen.toNat + 64 * s.lwrt.toNat + 16 * s.ri.toNat + 8 * s.toBit.toNat + 4 * s.pdBit.toNat +
      2 * s.por.toNat + s.bor.toNat := by
  simp only [sfrRead, append_toNat, bit_toNat, BitVec.toNat_ofNat]
  omega

theorem zero_append_toNat {m n : Nat} (x : BitVec n) : (0#m ++ x).toNat = x.toNat := by
  rw [append_toNat, BitVec.toNat_ofNat, Nat.zero_mod, Nat.mul_zero, Nat.zero_add]

theorem sfrRead_fsrl_toNat (i : FsrIdx) (s : State) : (sfrRead (.fsrl i) s).toNat = (s.fsr i).toNat % 256 :=
  low_toNat _ 8

theorem sfrRead_fsrh_toNat (i : FsrIdx) (s : State) : (sfrRead (.fsrh i) s).toNat = (s.fsr i).toNat / 256 := by
  have := (s.fsr i).isLt
  rw [sfrRead, zero_append_toNat, slice_toNat]
  omega

theorem sfrRead_tosu_toNat (s : State) : (sfrRead .tosu s).toNat = (s.entry s.sp).toNat / 65536 := by
  have := (s.entry s.sp).isLt
  rw [sfrRead, zero_append_toNat, slice_toNat]
  omega

theorem sfrRead_tblptru_toNat (s : State) : (sfrRead .tblptru s).toNat = s.tblptr.toNat / 65536 := by
  have := s.tblptr.isLt
  rw [sfrRead, zero_append_toNat, slice_toNat]
  omega

/-- Settles O20: RAM, the core registers by their rows of R60 (`readsAs_core`) with their bytes as numbers, PCL, and the
addresses behind P_PERIPH. -/
theorem memReadTable : Obligations.MemReadTable := by
  intro s h
  refine ⟨fun t wb => memRead_gpr wb, readsAs_core (r := .wreg) h rfl nofun rfl,
    readsAs_core (r := .status) h rfl nofun (statusByte_toNat _),
    readsAs_core (r := .bsr) h rfl nofun (zero_append_toNat _),
    readsAs_core (r := .fsrl .f0) h rfl nofun (sfrRead_fsrl_toNat .f0 s),
    readsAs_core (r := .fsrh .f0) h rfl nofun (sfrRead_fsrh_toNat .f0 s),
    readsAs_core (r := .fsrl .f1) h rfl nofun (sfrRead_fsrl_toNat .f1 s),
    readsAs_core (r := .fsrh .f1) h rfl nofun (sfrRead_fsrh_toNat .f1 s),
    readsAs_core (r := .fsrl .f2) h rfl nofun (sfrRead_fsrl_toNat .f2 s),
    readsAs_core (r := .fsrh .f2) h rfl nofun (sfrRead_fsrh_toNat .f2 s),
    readsAs_core (r := .pclath) h rfl nofun rfl,
    readsAs_core (r := .pclatu) h rfl nofun (zero_append_toNat _),
    readsAs_core (r := .tosl) h rfl nofun (low_toNat _ 8),
    readsAs_core (r := .tosh) h rfl nofun (slice_toNat _ 8 8),
    readsAs_core (r := .tosu) h rfl nofun (sfrRead_tosu_toNat s),
    readsAs_core (r := .stkptr) h rfl nofun (sfrRead_stkptr_toNat s),
    readsAs_core (r := .tblptrl) h rfl nofun (low_toNat _ 8),
    readsAs_core (r := .tblptrh) h rfl nofun (slice_toNat _ 8 8),
    readsAs_core (r := .tblptru) h rfl nofun (sfrRead_tblptru_toNat s),
    readsAs_core (r := .tablat) h rfl nofun rfl,
    readsAs_core (r := .prodh) h rfl nofun rfl,
    readsAs_core (r := .prodl) h rfl nofun rfl,
    readsAs_core (r := .intcon) h rfl nofun (sfrRead_intcon_toNat s),
    readsAs_core (r := .rcon) h rfl nofun (sfrRead_rcon_toNat s),
    fun ha wb => ⟨_, sfrRead_pcl_toNat s, memRead_pcl wb (h.placeOf_core rfl) ha⟩,
    fun t wb hu => ⟨memRead_unmapped_refused wb hu, memRead_unmapped_ports wb hu⟩⟩

/-! Registers as destinations -/

/-- A write to a core register that is neither PCL nor a top-of-stack register is `sfrWrite` (R105). -/
theorem memWrite_register (v : Byte) (masked : Bool) (h : SpecMap s.cfg)
    (ht : regAt Config.default t = some (.core r)) (hr : r ≠ .pcl) (htos : isTos r = false) :
    memWrite t v masked s = .next (sfrWrite r v masked s) :=
  memWrite_core v masked (h.placeOf_core ht) (absurd · hr) fun h1 => nomatch htos.symm.trans h1

/-- A bit by the remainder that has it on top. -/
theorem getLsbD_eq_decide_le {n : Nat} (x : BitVec n) (k : Nat) :
    x.getLsbD k = decide (2 ^ k ≤ x.toNat % 2 ^ (k + 1)) := by
  have hlow : x.toNat % 2 ^ k < 2 ^ k := Nat.mod_lt _ (Nat.two_pow_pos k)
  rw [getLsbD_eq_decide, decide_eq_decide, Nat.mod_pow_succ]
  rcases Nat.mod_two_eq_zero_or_one (x.toNat / 2 ^ k) with hb | hb <;> rw [hb] <;> omega

theorem byte_bit7 (v : Byte) : v.getLsbD 7 = decide (128 ≤ v.toNat) := getLsbD_top v

theorem byte_bit0 (v : Byte) : v.getLsbD 0 = decide (v.toNat % 2 = 1) := by
  rw [getLsbD_eq_decide, pow_zero, Nat.div_one]

theorem writeIntcon_eq (v : Byte) (s : State) : writeIntcon v s =
    { s with gieh := decide (128 ≤ v.toNat), giel := decide (64 ≤ v.toNat % 128), intcon50 := v.extractLsb' 0 6 } := by
  rw [writeIntcon, byte_bit7, getLsbD_eq_decide_le v 6]
  rfl

theorem writeRcon_eq (v : Byte) (s : State) : writeRcon v s = { s with
    ipen := decide (128 ≤ v.toNat), lwrt := s.lwrt || decide (64 ≤ v.toNat % 128),
    ri := decide (16 ≤ v.toNat % 32), por := decide (2 ≤ v.toNat % 4), bor := decide (v.toNat % 2 = 1) } := by
  rw [writeRcon, byte_bit7, byte_bit0, getLsbD_eq_decide_le v 6, getLsbD_eq_decide_le v 4, getLsbD_eq_decide_le v 1]
  rfl

theorem flagsOfByte_eq (v : Byte) : flagsOfByte v =
    ⟨decide (16 ≤ v.toNat % 32), decide (8 ≤ v.toNat % 16), decide (4 ≤ v.toNat % 8), decide (2 ≤ v.toNat % 4),
      decide (v.toNat % 2 = 1)⟩ := by
  rw [flagsOfByte, byte_bit0, getLsbD_eq_decide_le v 4, getLsbD_eq_decide_le v 3, getLsbD_eq_decide_le v 2,
    getLsbD_eq_decide_le v 1]
  rfl

/-- A write to FSRiL, at its row of R60. -/
theorem memWrite_fsrl (i : FsrIdx) (v : Byte) (masked : Bool) (h : SpecMap s.cfg)
    (ht : regAt Config.default t = some (.core (.fsrl i))) : ∃ x : BitVec 12,
    x.toNat = 256 * ((s.fsr i).toNat / 256) + v.toNat ∧ memWrite t v masked s = .next (s.setFsr i x) := by
  refine ⟨_, ?_, memWrite_register v masked h ht nofun rfl⟩
  have := (s.fsr i).isLt
  rw [append_toNat, slice_toNat]
  omega

/-- A write to FSRiH, at its row of R60. -/
theorem memWrite_fsrh (i : FsrIdx) (v : Byte) (masked : Bool) (h : SpecMap s.cfg)
    (ht : regAt Config.default t = some (.core (.fsrh i))) : ∃ x : BitVec 12,
    x.toNat = 256 * (v.toNat % 16) + (s.fsr i).toNat % 256 ∧ memWrite t v masked s = .next (s.setFsr i x) := by
  refine ⟨_, ?_, memWrite_register v masked h ht nofun rfl⟩
  rw [append_toNat, low_toNat, low_toNat]
  rfl

theorem replaceTblptrl_toNat (p : BitVec 22) (v : Byte) :
    (p.extractLsb' 8 14 ++ v).toNat = 256 * (p.toNat / 256) + v.toNat := by
  have := p.isLt
  rw [append_toNat, slice_toNat]
  omega

theorem replaceTblptrh_toNat (p : BitVec 22) (v : Byte) :
    (p.extractLsb' 16 6 ++ v ++ p.extractLsb' 0 8).toNat =
      65536 * (p.toNat / 65536) + 256 * v.toNat + p.toNat % 256 := by
  have := p.isLt
  rw [append_toNat, append_toNat, slice_toNat, low_toNat]
  omega

theorem replaceTblptru_toNat (p : BitVec 22) (v : Byte) :
    (v.extractLsb' 0 6 ++ p.extractLsb' 0 16).toNat = 65536 * (v.toNat % 64) + p.toNat % 65536 := by
  rw [append_toNat, low_toNat, low_toNat]
  rfl

/-- Settles O21: RAM, the core registers by their rows of R60 (`memWrite_register`) with what is stored as a number, and
the addresses behind P_PERIPH. -/
theorem memWriteTable : Obligations.MemWriteTable := by
  intro s v masked h
  have hreg {t : DataAddr} (r : Sfr) (ht : regAt Config.default t = some (.core r)) (hr : r ≠ .pcl)
      (htos : isTos r = false) : memWrite t v masked s = .next (sfrWrite r v masked s) :=
    memWrite_register v masked h ht hr htos
  refine ⟨fun t => memWrite_gpr v masked, hreg .wreg rfl nofun rfl, ⟨_, low_toNat v 4, hreg .bsr rfl nofun rfl⟩,
    fun p hp => ?_, fun p hp => ?_, hreg .pclath rfl nofun rfl, ⟨_, low_toNat v 5, hreg .pclatu rfl nofun rfl⟩,
    ⟨_, replaceTblptrl_toNat s.tblptr v, hreg .tblptrl rfl nofun rfl⟩,
    ⟨_, replaceTblptrh_toNat s.tblptr v, hreg .tblptrh rfl nofun rfl⟩,
    ⟨_, replaceTblptru_toNat s.tblptr v, hreg .tblptru rfl nofun rfl⟩,
    hreg .tablat rfl nofun rfl, hreg .prodh rfl nofun rfl, hreg .prodl rfl nofun rfl,
    ⟨_, low_toNat v 6, writeIntcon_eq v s ▸ hreg .intcon rfl nofun rfl⟩,
    writeRcon_eq v s ▸ hreg .rcon rfl nofun rfl,
    fun t hu => ⟨memWrite_unmapped_refused v masked hu, memWrite_unmapped_ports v masked hu⟩⟩
  · rcases mem_triple.1 hp with rfl | rfl | rfl <;> exact memWrite_fsrl _ v masked h rfl
  · rcases mem_triple.1 hp with rfl | rfl | rfl <;> exact memWrite_fsrh _ v masked h rfl

/-! STATUS as a destination -/

theorem writeOnly_direct {f : Byte} {a : RamSel} (v : Byte) (masked : Bool) (fl : Flags)
    (hv : virtAt s.cfg (ea f a s) = none) :
    writeOnly f a v masked fl s = memWrite (ea f a s) v masked (s.setFlags fl).advance := by
  rw [writeOnly, resolve_direct hv, andThen_of_next]

/-- Settles O22: the two arms of STATUS in `sfrWrite`; CLRF writes flags, so its data write is masked. -/
theorem statusAsDestination : Obligations.StatusAsDestination := by
  intro s v h
  have hrow : regAt Config.default 0xFD8 = some (.core .status) := rfl
  refine ⟨memWrite_register v true h hrow nofun rfl, ?_, fun hsplit => ?_⟩
  · rw [← flagsOfByte_eq]
    exact memWrite_register v false h hrow nofun rfl
  · have hea : ea 0xD8 .access s = 0xFD8 := ea_access_high hsplit
    have hv : virtAt s.cfg (ea 0xD8 .access s) = none :=
      hea ▸ virtAt_of_core ((regAt_of_table h.table _).trans hrow)
    have hx : exec (.clrf 0xD8 .access) s = memWrite (ea 0xD8 .access s) 0 true
        (s.setFlags { s.flags with z := true }).advance := writeOnly_direct 0 true _ hv
    rw [hx, hea]
    exact memWrite_register (s := (s.setFlags { s.flags with z := true }).advance) 0 true h hrow nofun rfl

end Sys2Proof.Machine
end

section
/-! SUPPORT. Decoding what was encoded (30_encoding.md R131 to R144, R155, R162): every operand comes back. -/

namespace Sys2Proof.Machine

/-! Operand fields -/

@[simp] theorem bitOfDest_destOfBit (b : Bool) : bitOfDest (destOfBit b) = b := by cases b <;> rfl

@[simp] theorem bitOfRam_ramOfBit (b : Bool) : bitOfRam (ramOfBit b) = b := by cases b <;> rfl

theorem bit_getLsbD_toNat {w : Nat} (x : BitVec w) (k : Nat) : (bit (x.getLsbD k)).toNat = x.toNat / 2 ^ k % 2 := by
  rw [bit_toNat, BitVec.getLsbD, Nat.toNat_testBit]

@[simp] theorem formatSecond_low (x : BitVec 12) : (formatSecond x).extractLsb' 0 12 = x :=
  BitVec.extractLsb'_append_eq_right

/-- The fields of the low byte of LFSR's first word (R137). -/
theorem lfsrFields (ff : BitVec 2) (y : BitVec 4) : (0b00#2 ++ ff ++ y : Byte).extractLsb' 6 2 = 0#2 ∧
    (0b00#2 ++ ff ++ y : Byte).extractLsb' 4 2 = ff ∧ (0b00#2 ++ ff ++ y : Byte).extractLsb' 0 4 = y := by
  revert ff y
  decide

/-! The decoder on encoded words -/

/-- Every instruction's first word tells whether it is assigned and how long it is. -/
theorem encodeFirst_size (i : Instr) : Laws.Size.Statement i :=
  open Laws.Size in
  i.casesOn addwf addwfc andwf clrf comf cpfseq cpfsgt cpfslt decf decfsz dcfsnz incf incfsz infsnz iorwf movf movff
    movwf mulwf negf rlcf rlncf rrcf rrncf setf subfwb subwf subwfb swapf tstfsz xorwf bcf bsf btfsc btfss btg
    bc bn bnc bnn bnov bnz bov bra bz call clrwdt Laws.Size.daw goto nop nop2 pop push rcall reset retfie retlw retn
    sleep addlw andlw iorlw lfsr movlb movlw mullw sublw xorlw
    tblrd tblrdPostInc tblrdPostDec tblrdPreInc tblwt tblwtPostInc tblwtPostDec tblwtPreInc

section
variable (lo : Byte) (w2 : Word)

theorem decodeHigh_movff (x : BitVec 4) :
    decodeHigh (0xC#4 ++ x) lo w2 = some (.movff (x ++ lo) (w2.extractLsb' 0 12)) := by
  rcases Laws.Size.cases4 x with rfl | rfl | rfl | rfl | rfl | rfl | rfl | rfl | rfl | rfl | rfl | rfl | rfl | rfl | rfl
    | rfl <;> rfl

theorem decodeHigh_nop2 (x : BitVec 4) : decodeHigh (0xF#4 ++ x) lo w2 = some (.nop2 (x ++ lo)) := by
  rcases Laws.Size.cases4 x with rfl | rfl | rfl | rfl | rfl | rfl | rfl | rfl | rfl | rfl | rfl | rfl | rfl | rfl | rfl
    | rfl <;> rfl

theorem decodeHigh_bra (x : BitVec 3) : decodeHigh (0b1101#4 ++ 0#1 ++ x) lo w2 = some (.bra (x ++ lo)) := by
  rcases Laws.Size.cases3 x with rfl | rfl | rfl | rfl | rfl | rfl | rfl | rfl <;> rfl

theorem decodeHigh_rcall (x : BitVec 3) : decodeHigh (0b1101#4 ++ 1#1 ++ x) lo w2 = some (.rcall (x ++ lo)) := by
  rcases Laws.Size.cases3 x with rfl | rfl | rfl | rfl | rfl | rfl | rfl | rfl <;> rfl

theorem decodeHigh_movlb (k : BitVec 4) : decodeHigh 0x01 (0x0#4 ++ k) w2 = some (.movlb k) := by
  rcases Laws.Size.cases4 k with rfl | rfl | rfl | rfl | rfl | rfl | rfl | rfl | rfl | rfl | rfl | rfl | rfl | rfl | rfl
    | rfl <;> rfl

theorem decodeHigh_goto : decodeHigh 0xEF lo w2 = some (.goto (w2.extractLsb' 0 12 ++ lo)) := rfl

theorem decodeHigh_call (fast : Bool) :
    decodeHigh (0b1110110#7 ++ bit fast) lo w2 = some (.call (w2.extractLsb' 0 12 ++ lo) fast) := by
  cases fast <;> rfl

/-- R137: LFSR with an `ff` that selects a file select register. -/
theorem decodeHigh_lfsr {ff : BitVec 2} (y : BitVec 4) (hff : ff ≠ 3#2) :
    decodeHigh 0xEE (0b00#2 ++ ff ++ y) w2 = some (.lfsr ff (y ++ w2.extractLsb' 0 8)) := by
  obtain ⟨hzero, hsel, hlow⟩ := lfsrFields ff y
  have hdef (l : Byte) : decodeHigh 0xEE l w2 = if l.extractLsb' 6 2 = 0#2 ∧ l.extractLsb' 4 2 ≠ 3#2 then
      some (.lfsr (l.extractLsb' 4 2) (l.extractLsb' 0 4 ++ w2.extractLsb' 0 8)) else none := rfl
  rw [hdef, hsel, hlow, if_pos ⟨hzero, hff⟩]

end

/-- `decodeWords` on a word given by its bytes. -/
theorem decodeWords_of_bytes {i j : Instr} {hi lo : Byte} {w2 : Word} (hw : encodeFirst i = hi ++ lo)
    (hd : decodeHigh hi lo w2 = some j) : decodeWords (encodeFirst i) w2 = .ok j := by
  rw [decodeWords, hw, highByte_append, lowByte_append, hd]

/-- R162 on the words of R131 to R144: every operand comes back. -/
theorem decodeWords_encode {i : Instr} {w2 : Word} (hwf : i.wellFormed = true)
    (h2 : ∀ x, encodeSecond i = some x → w2 = x) : decodeWords (encodeFirst i) w2 = .ok i := by
  cases i with
  | addwf f d a | addwfc f d a | andwf f d a | comf f d a | decf f d a | decfsz f d a | dcfsnz f d a | incf f d a
  | incfsz f d a | infsnz f d a | iorwf f d a | movf f d a | rlcf f d a | rlncf f d a | rrcf f d a | rrncf f d a
  | subfwb f d a | subwf f d a | subwfb f d a | swapf f d a | xorwf f d a =>
    cases d <;> cases a <;> exact decodeWords_of_bytes rfl rfl
  | clrf f a | cpfseq f a | cpfsgt f a | cpfslt f a | movwf f a | mulwf f a | negf f a | setf f a | tstfsz f a =>
    cases a <;> exact decodeWords_of_bytes rfl rfl
  | bcf f b a | bsf f b a | btfsc f b a | btfss f b a | btg f b a =>
    rcases Laws.Size.cases3 b with rfl | rfl | rfl | rfl | rfl | rfl | rfl | rfl <;> cases a <;>
      exact decodeWords_of_bytes rfl rfl
  | bc | bn | bnc | bnn | bnov | bnz | bov | bz | retlw | addlw | andlw | iorlw | movlw | mullw | sublw | xorlw =>
    exact decodeWords_of_bytes rfl rfl
  | retfie fast | retn fast => cases fast <;> rfl
  | clrwdt | daw | nop | pop | push | reset | sleep | tblrd | tblrdPostInc | tblrdPostDec | tblrdPreInc | tblwt
  | tblwtPostInc | tblwtPostDec | tblwtPreInc => rfl
  | movlb k => exact decodeWords_of_bytes rfl (decodeHigh_movlb w2 k)
  | bra n =>
    rw [decodeWords_of_bytes rfl (decodeHigh_bra _ w2 _), BitVec.extractLsb'_append_extractLsb' (w := 3) (len := 8)]
  | rcall n =>
    rw [decodeWords_of_bytes rfl (decodeHigh_rcall _ w2 _), BitVec.extractLsb'_append_extractLsb' (w := 3) (len := 8)]
  | nop2 x =>
    rw [decodeWords_of_bytes rfl (decodeHigh_nop2 _ w2 _), BitVec.extractLsb'_append_extractLsb' (w := 4) (len := 8)]
  | movff fs fd =>
    obtain rfl := h2 _ rfl
    rw [decodeWords_of_bytes rfl (decodeHigh_movff _ _ _),
      BitVec.extractLsb'_append_extractLsb' (w := 4) (len := 8), formatSecond_low]
  | goto k =>
    obtain rfl := h2 _ rfl
    rw [decodeWords_of_bytes rfl (decodeHigh_goto _ _), formatSecond_low,
      BitVec.extractLsb'_append_extractLsb' (w := 12) (len := 8)]
  | call k fast =>
    obtain rfl := h2 _ rfl
    rw [decodeWords_of_bytes rfl (decodeHigh_call _ _ _), formatSecond_low,
      BitVec.extractLsb'_append_extractLsb' (w := 12) (len := 8)]
  | lfsr ff k =>
    obtain rfl := h2 _ rfl
    have hff : ff ≠ 3#2 := by simpa [Instr.wellFormed] using hwf
    rw [decodeWords_of_bytes rfl (decodeHigh_lfsr _ _ hff), lowByte_append,
      BitVec.extractLsb'_append_extractLsb' (w := 4) (len := 8)]

theorem secondWordOk_formatSecond {hi : Byte} (lo : Byte) (x : BitVec 12) (hhi : hi.toNat ≠ 0xEE) :
    secondWordOk (hi ++ lo) (formatSecond x) = true := by
  have := lo.isLt
  have := x.isLt
  rw [secondWordOk_iff, formatSecond, append_toNat, append_toNat, BitVec.toNat_ofNat]
  omega

/-- R151: the second word of an encoded instruction has its fixed bits. -/
theorem secondWordOk_encode {i : Instr} {x : Word} (h : encodeSecond i = some x) :
    secondWordOk (encodeFirst i) x = true := by
  cases i with
  | movff fs fd =>
    have := (fs.extractLsb' 8 4).isLt
    refine Option.some.inj h ▸ secondWordOk_formatSecond _ fd ?_
    rw [append_toNat, BitVec.toNat_ofNat]
    omega
  | call k fast => exact Option.some.inj h ▸ secondWordOk_formatSecond _ _ (by cases fast <;> nofun)
  | goto k => exact Option.some.inj h ▸ secondWordOk_formatSecond _ _ nofun
  | lfsr ff k =>
    obtain rfl := Option.some.inj h
    have hlow := (k.extractLsb' 0 8).isLt
    rw [secondWordOk_iff, append_toNat, BitVec.toNat_ofNat]
    omega
  | _ => exact nomatch h

/-- R150: the first word of every instruction that has a second word, also of LFSR with `ff = 11`. -/
theorem isTwoWordFirst_encode {i : Instr} {x : Word} (h : encodeSecond i = some x) :
    isTwoWordFirst (encodeFirst i) = true := by
  cases i with
  | movff | call | goto => exact (encodeFirst_size _ rfl).2
  | lfsr ff k =>
    have hfixed : (0b00#2 ++ ff ++ k.extractLsb' 8 4 : Byte).extractLsb' 6 2 = 0#2 :=
      (lfsrFields ff _).1
    rw [encodeFirst, isTwoWordFirst_append, hfixed]
    rfl
  | _ => exact nomatch h

/-! The bytes of one instruction -/

theorem wordOfBytes_bytes (w : Word) : wordOfBytes (w.extractLsb' 0 8) (w.extractLsb' 8 8) = w := append_bytes w

theorem decodeChecked_of_decodeWords {w1 w2 : Word} {i : Instr} (hd : decodeWords w1 w2 = .ok i)
    (h2 : isTwoWordFirst w1 = true → secondWordOk w1 w2 = true) : decodeChecked w1 w2 = .ok i := by
  rw [decodeChecked, hd]
  refine if_neg fun hbad => ?_
  obtain ⟨hfirst, hnot⟩ := Bool.and_eq_true_iff.1 hbad
  rw [h2 hfirst] at hnot
  exact nomatch hnot

theorem decode_oneWord {w : Word} {i : Instr} (rest : List Byte) (ha : isAssigned w = true)
    (ht : isTwoWordFirst w = false) (hd : decodeWords w 0 = .ok i) :
    decode (w.extractLsb' 0 8 :: w.extractLsb' 8 8 :: rest) = .ok (i, rest) := by
  have hc : decodeChecked w 0#16 = .ok i := decodeChecked_of_decodeWords hd fun h => nomatch ht.symm.trans h
  simp [decode, wordOfBytes_bytes, ha, ht, hc]

theorem decode_twoWords {w1 w2 : Word} {i : Instr} (rest : List Byte) (ha : isAssigned w1 = true)
    (ht : isTwoWordFirst w1 = true) (h2 : secondWordOk w1 w2 = true) (hd : decodeWords w1 w2 = .ok i) :
    decode (w1.extractLsb' 0 8 :: w1.extractLsb' 8 8 :: w2.extractLsb' 0 8 :: w2.extractLsb' 8 8 :: rest) =
      .ok (i, rest) := by
  have hc : decodeChecked w1 w2 = .ok i := decodeChecked_of_decodeWords hd fun _ => h2
  simp [decode, wordOfBytes_bytes, ha, ht, hc]

/-- Settles O2: the first word tells the length (`encodeFirst_size`), and the words give every operand back
(`decodeWords_encode`). -/
theorem decodeOfEncode : Obligations.DecodeOfEncode := by
  intro i rest hwf
  obtain ⟨ha, ht⟩ := encodeFirst_size i hwf
  have hbytes : encodeBytes i = (encode i).flatMap fun w => [w.extractLsb' 0 8, w.extractLsb' 8 8] := rfl
  rw [hbytes, encode]
  cases hx : encodeSecond i with
  | none =>
    refine decode_oneWord rest ha (by rw [ht, hx]; rfl) (decodeWords_encode hwf fun x h => ?_)
    exact nomatch hx.symm.trans h
  | some x =>
    refine decode_twoWords rest ha (by rw [ht, hx]; rfl) (secondWordOk_encode hx)
      (decodeWords_encode hwf fun y h => ?_)
    exact Option.some.inj (hx.symm.trans h)

end Sys2Proof.Machine
end

section
/-! SUPPORT. Encoding what was decoded (30_encoding.md R151, R155, R162): no bit of an assigned word is dropped. -/

namespace Sys2Proof.Machine

section
variable {hi lo : Byte} {w2 : Word}

/-- The instruction `i` is the one that the first word with the bytes `hi` and `lo` and the second word `w2`, if it has
one, stand for. -/
structure Encodes (hi lo : Byte) (w2 : Word) (i : Instr) : Prop where
  wellFormed : i.wellFormed = true
  first : encodeFirst i = hi ++ lo
  second : ∀ x, encodeSecond i = some x → secondWordOk (hi ++ lo) w2 = true → x = w2

theorem Encodes.oneWord {i : Instr} (hwf : i.wellFormed = true) (hfirst : encodeFirst i = hi ++ lo)
    (hnone : encodeSecond i = none) : Encodes hi lo w2 i :=
  ⟨hwf, hfirst, fun _ hx => nomatch hnone.symm.trans hx⟩

theorem Encodes.twoWords {i : Instr} {x : Word} (hwf : i.wellFormed = true) (hfirst : encodeFirst i = hi ++ lo)
    (hx : encodeSecond i = some x) (hok : secondWordOk (hi ++ lo) w2 = true → x = w2) : Encodes hi lo w2 i :=
  ⟨hwf, hfirst, fun _ hy h => Option.some.inj (hy.symm.trans hx) ▸ hok h⟩

/-- Equal first bytes make equal words. -/
theorem byteAppend_of_toNat {h : Byte} (lo : Byte) (e : h.toNat = hi.toNat) : h ++ lo = hi ++ lo :=
  congrArg (· ++ lo) (BitVec.eq_of_toNat_eq e)

theorem high_nibble {n : Nat} (h : hi.toNat / 4 = n) : hi.toNat / 16 = n / 4 := by omega

theorem high_five {n : Nat} (h : hi.toNat / 4 = n) : hi.toNat / 8 = n / 2 := by omega

theorem high_seven {n : Nat} {b : Bool} (h : hi.toNat / 4 = n) (hb : hi.getLsbD 1 = b) :
    hi.toNat / 2 = 2 * n + b.toNat := by
  have hbit := bit_getLsbD_toNat hi 1
  rw [hb, bit_toNat] at hbit
  omega

/-- `BYTE_D` (R131) from the fields of the first byte. -/
theorem formatByteD_fields {o : BitVec 6} (h : hi.toNat / 4 = o.toNat) :
    formatByteD o lo (destOfBit (hi.getLsbD 1)) (ramOfBit (hi.getLsbD 0)) = hi ++ lo := by
  refine byteAppend_of_toNat lo ?_
  simp only [append_toNat, bitOfDest_destOfBit, bitOfRam_ramOfBit, bit_getLsbD_toNat]
  omega

/-- A byte is its high seven bits in front of its bit 0. -/
theorem append_bit0 {o : BitVec 7} (h : hi.toNat / 2 = o.toNat) : (o ++ bit (hi.getLsbD 0) : Byte) = hi := by
  apply BitVec.eq_of_toNat_eq
  rw [append_toNat, bit_getLsbD_toNat]
  omega

/-- `BYTE_A` (R132) from the fields of the first byte. -/
theorem formatByteA_fields {o : BitVec 7} (h : hi.toNat / 2 = o.toNat) :
    formatByteA o lo (ramOfBit (hi.getLsbD 0)) = hi ++ lo := by
  rw [formatByteA, bitOfRam_ramOfBit, append_bit0 h]

/-- `BIT` (R133) from the fields of the first byte. -/
theorem formatBit_fields {o : BitVec 4} (h : hi.toNat / 16 = o.toNat) :
    formatBit o lo (hi.extractLsb' 1 3) (ramOfBit (hi.getLsbD 0)) = hi ++ lo := by
  refine byteAppend_of_toNat lo ?_
  simp only [append_toNat, slice_toNat, bitOfRam_ramOfBit, bit_getLsbD_toNat]
  omega

/-- `BCC` (R138) from the fields of the first byte. -/
theorem formatBcc_fields (h : hi.toNat / 8 = 0b11100) : formatBcc (hi.extractLsb' 0 3) lo = hi ++ lo := by
  refine byteAppend_of_toNat lo ?_
  simp only [append_toNat, low_toNat, BitVec.toNat_ofNat]
  omega

/-- `REL11` (R139) from the fields of the first byte. -/
theorem formatRel11_fields {o : BitVec 1} (h : hi.toNat / 8 = 2 * 0b1101 + o.toNat) :
    formatRel11 o (hi.extractLsb' 0 3 ++ lo) = hi ++ lo := by
  rw [formatRel11, BitVec.extractLsb'_append_eq_left, BitVec.extractLsb'_append_eq_right]
  refine byteAppend_of_toNat lo ?_
  simp only [append_toNat, low_toNat, BitVec.toNat_ofNat]
  omega

/-- A first word with twelve operand bits (R134, R144) from the fields of the first byte. -/
theorem formatNibble_fields {o : BitVec 4} (h : hi.toNat / 16 = o.toNat) :
    (o ++ (hi.extractLsb' 0 4 ++ lo : BitVec 12).extractLsb' 8 4 : Byte) ++
      (hi.extractLsb' 0 4 ++ lo : BitVec 12).extractLsb' 0 8 = hi ++ lo := by
  rw [BitVec.extractLsb'_append_eq_left, BitVec.extractLsb'_append_eq_right]
  refine byteAppend_of_toNat lo ?_
  simp only [append_toNat, low_toNat]
  omega

/-- A second word with twelve operand bits is given back when it has its fixed bits (R151). -/
theorem formatSecond_of_secondWordOk {w1 : Word} (h : secondWordOk w1 w2 = true) :
    formatSecond (w2.extractLsb' 0 12) = w2 := by
  have := ((secondWordOk_iff _ _).1 h).1
  apply BitVec.eq_of_toNat_eq
  rw [formatSecond, append_toNat, low_toNat, BitVec.toNat_ofNat]
  omega

theorem lfsrSecond_of_secondWordOk (hhi : hi.toNat = 0xEE) (h : secondWordOk (hi ++ lo) w2 = true) :
    0xF0#8 ++ w2.extractLsb' 0 8 = w2 := by
  have := lo.isLt
  have hfixed := ((secondWordOk_iff _ _).1 h).2
  rw [append_toNat] at hfixed
  apply BitVec.eq_of_toNat_eq
  rw [append_toNat, low_toNat, BitVec.toNat_ofNat]
  omega

theorem encodes_of_decodeZeroPage {i : Instr} (h : decodeZeroPage lo = some i) : Encodes 0 lo w2 i := by
  have hall : ∀ l : Byte, (decodeZeroPage l).all (fun i =>
      i.wellFormed && encodeFirst i == 0#8 ++ l && encodeSecond i == none) = true := by decide
  have hspec := hall lo
  simp only [h, Option.all_some, Bool.and_eq_true, beq_iff_eq] at hspec
  obtain ⟨⟨hwf, hfirst⟩, hnone⟩ := hspec
  exact .oneWord hwf hfirst hnone

theorem encodes_of_decodeLiteral {i : Instr} : decodeLiteral hi lo = some i → Encodes hi lo w2 i := by
  fun_cases decodeLiteral hi lo
  case case9 => exact nofun
  all_goals
    rintro ⟨⟩
    exact .oneWord rfl (byteAppend_of_toNat lo (Eq.symm ‹hi.toNat = _›)) rfl

theorem encodes_decodeBranch (h : hi.toNat / 8 = 0b11100) :
    Encodes hi lo w2 (decodeBranch (hi.extractLsb' 0 3) lo) := by
  have hfirst : ∀ c : BitVec 3, encodeFirst (decodeBranch c lo) = formatBcc c lo ∧
      encodeSecond (decodeBranch c lo) = none ∧ (decodeBranch c lo).wellFormed = true := fun c => by
    rcases Laws.Size.cases3 c with rfl | rfl | rfl | rfl | rfl | rfl | rfl | rfl <;> exact ⟨rfl, rfl, rfl⟩
  obtain ⟨hbcc, hnone, hwf⟩ := hfirst (hi.extractLsb' 0 3)
  exact .oneWord hwf (hbcc.trans (formatBcc_fields h)) hnone

theorem encodes_movlb (h : hi.toNat = 1) (hlo : lo.extractLsb' 4 4 = 0#4) :
    Encodes hi lo w2 (.movlb (lo.extractLsb' 0 4)) := by
  have hlow : (0#4 ++ lo.extractLsb' 0 4 : Byte) = lo :=
    hlo ▸ BitVec.extractLsb'_append_extractLsb' (w := 4) (len := 4)
  refine .oneWord rfl ?_ rfl
  rw [encodeFirst, hlow]
  exact byteAppend_of_toNat lo h.symm

theorem encodes_goto (h : hi.toNat = 0xEF) : Encodes hi lo w2 (.goto (w2.extractLsb' 0 12 ++ lo)) := by
  refine .twoWords rfl ?_ rfl fun hok => ?_
  · rw [encodeFirst, BitVec.extractLsb'_append_eq_right]
    exact byteAppend_of_toNat lo h.symm
  · rw [BitVec.extractLsb'_append_eq_left]
    exact formatSecond_of_secondWordOk hok

theorem encodes_call (h : hi.toNat / 2 = 0b1110110) :
    Encodes hi lo w2 (.call (w2.extractLsb' 0 12 ++ lo) (hi.getLsbD 0)) := by
  refine .twoWords rfl ?_ rfl fun hok => ?_
  · rw [encodeFirst, BitVec.extractLsb'_append_eq_right, append_bit0 h]
  · rw [BitVec.extractLsb'_append_eq_left]
    exact formatSecond_of_secondWordOk hok

theorem encodes_lfsr (h : hi.toNat = 0xEE) (hzero : lo.extractLsb' 6 2 = 0#2) (hff : lo.extractLsb' 4 2 ≠ 3#2) :
    Encodes hi lo w2 (.lfsr (lo.extractLsb' 4 2) (lo.extractLsb' 0 4 ++ w2.extractLsb' 0 8)) := by
  have hlow : (0b00#2 ++ lo.extractLsb' 4 2 ++ lo.extractLsb' 0 4 : Byte) = lo := by
    have hnum := congrArg BitVec.toNat hzero
    have := lo.isLt
    apply BitVec.eq_of_toNat_eq
    simp only [append_toNat, slice_toNat, BitVec.toNat_ofNat] at hnum ⊢
    omega
  refine .twoWords (by simpa [Instr.wellFormed] using hff) ?_ rfl fun hok => ?_
  · rw [encodeFirst, BitVec.extractLsb'_append_eq_left, hlow]
    exact byteAppend_of_toNat lo h.symm
  · rw [BitVec.extractLsb'_append_eq_right]
    exact lfsrSecond_of_secondWordOk h hok

/-- The decoder's branches, each by the format of its instruction. -/
theorem encodes_of_decodeHigh {i : Instr} : decodeHigh hi lo w2 = some i → Encodes hi lo w2 i := by
  fun_cases decodeHigh hi lo w2
  case case1 _ h =>
    obtain rfl := BitVec.eq_of_toNat_eq (y := 0#8) h
    exact encodes_of_decodeZeroPage
  case case6 | case7 => exact encodes_of_decodeLiteral
  case case3 | case63 | case70 => exact nofun
  all_goals rintro ⟨⟩
  case case2 _ h hlo => exact encodes_movlb h hlo
  case case4 h h0 h1 =>
    simp only [imp_false] at h0 h1
    exact .oneWord rfl (formatByteA_fields (show hi.toNat / 2 = 1 by omega)) rfl
  case case5 h | case8 h | case9 h | case10 h | case11 h | case12 h | case13 h | case14 h | case15 h | case16 h
      | case17 h | case18 h | case19 h | case20 h | case21 h | case22 h | case23 h | case24 h | case25 h | case26 h
      | case27 h =>
    exact .oneWord rfl (formatByteD_fields h) rfl
  case case28 h | case29 h | case30 h | case31 h =>
    split
    · exact .oneWord rfl (formatByteA_fields (high_seven (b := true) h ‹_›)) rfl
    · exact .oneWord rfl (formatByteA_fields (high_seven (b := false) h (Bool.eq_false_iff.2 ‹_›))) rfl
  case case32 h | case33 h | case34 h | case35 h | case36 h | case37 h | case38 h | case39 h | case40 h | case41 h
      | case42 h | case43 h | case44 h | case45 h | case46 h | case47 h | case48 h | case49 h | case50 h | case51 h =>
    exact .oneWord rfl (formatBit_fields (high_nibble h)) rfl
  case case52 h | case53 h | case54 h | case55 h =>
    exact .twoWords rfl (formatNibble_fields (o := 0xC) (high_nibble h)) rfl formatSecond_of_secondWordOk
  case case56 h | case57 h | case58 h | case59 h => exact .oneWord rfl (formatRel11_fields (high_five h)) rfl
  case case60 h | case61 h => exact encodes_decodeBranch (high_five h)
  case case62 _ h hlo =>
    obtain ⟨hzero, hff⟩ := hlo
    exact encodes_lfsr h hzero hff
  case case64 _ h => exact encodes_goto h
  case case65 h hEE hEF =>
    simp only [imp_false] at hEE hEF
    exact encodes_call (by omega)
  case case66 h | case67 h | case68 h | case69 h =>
    exact .oneWord rfl (formatNibble_fields (o := 0xF) (high_nibble h)) rfl

end

theorem decodeWords_eq_ok {w1 w2 : Word} {i : Instr} (h : decodeWords w1 w2 = .ok i) :
    decodeHigh (w1.extractLsb' 8 8) (w1.extractLsb' 0 8) w2 = some i := by
  unfold decodeWords at h
  split at h
  · rename_i j hj
    rw [hj, Except.ok.inj h]
  · exact nomatch h

/-- R162 with R151: the words decode, and the second word of two has its fixed bits. -/
theorem decodeChecked_eq_ok {w1 w2 : Word} {i : Instr} (h : decodeChecked w1 w2 = .ok i) :
    decodeWords w1 w2 = .ok i ∧ (isTwoWordFirst w1 = true → secondWordOk w1 w2 = true) := by
  unfold decodeChecked at h
  split at h
  · exact nomatch h
  · rename_i j hj
    split at h
    · exact nomatch h
    · rename_i hbad
      rw [hj, Except.ok.inj h]
      exact ⟨rfl, by simpa using hbad⟩

/-- Settles O3: the decoder's branches (`encodes_of_decodeHigh`); the first word tells whether there is a second. -/
theorem encodeOfDecode : Obligations.EncodeOfDecode := by
  intro w1 w2 i h
  obtain ⟨hd, hok⟩ := decodeChecked_eq_ok h
  obtain ⟨hwf, hfirst, hsecond⟩ := encodes_of_decodeHigh (decodeWords_eq_ok hd)
  rw [append_bytes] at hfirst hsecond
  have hsize : isTwoWordFirst w1 = (encodeSecond i).isSome := hfirst ▸ (encodeFirst_size i hwf).2
  refine ⟨hwf, hfirst, ?_⟩
  cases hx : encodeSecond i with
  | none => rw [if_neg (by simp [hsize, hx])]
  | some x =>
    have htwo : isTwoWordFirst w1 = true := by rw [hsize, hx]; rfl
    rw [if_pos htwo, hsecond x hx (hok htwo)]

end Sys2Proof.Machine
end

section
/-! SUPPORT. Unassigned words (30_encoding.md R160), two-word instructions (R150, R285), the look-ahead of a skip (R152)
and the sample words. -/

namespace Sys2Proof.Machine

/-! Unassigned words (R160) -/

section
variable {hi lo : Byte} {w2 : Word}

theorem decodeZeroPage_eq_none_iff : decodeZeroPage lo = none ↔
    lo.toNat = 0x01 ∨ lo.toNat = 0x02 ∨ (0x14 ≤ lo.toNat ∧ lo.toNat ≤ 0xFE) := by
  revert lo
  decide

theorem decodeLiteral_ne_none (h : hi.toNat / 8 = 1) : decodeLiteral hi lo ≠ none := by
  fun_cases decodeLiteral hi lo
  case case9 =>
    simp only [imp_false] at *
    omega
  all_goals exact nofun

theorem lfsrPattern_iff : (lo.extractLsb' 6 2 = 0#2 ∧ lo.extractLsb' 4 2 ≠ 3#2) ↔ lo.toNat < 0x30 := by
  have := lo.isLt
  simp only [ne_eq, ← BitVec.toNat_inj, slice_toNat, BitVec.toNat_ofNat]
  omega

theorem movlbPattern_iff : lo.extractLsb' 4 4 = 0#4 ↔ lo.toNat < 0x10 := by
  have := lo.isLt
  simp only [← BitVec.toNat_inj, slice_toNat, BitVec.toNat_ofNat]
  omega

/-- The empty places of the opcode map (R158, R160), by the bytes of the first word. -/
theorem decodeHigh_eq_none_iff : decodeHigh hi lo w2 = none ↔
    (hi.toNat = 0x00 ∧ (lo.toNat = 0x01 ∨ lo.toNat = 0x02 ∨ (0x14 ≤ lo.toNat ∧ lo.toNat ≤ 0xFE))) ∨
      (hi.toNat = 0x01 ∧ 0x10 ≤ lo.toNat) ∨ hi.toNat / 4 = 58 ∨ (hi.toNat = 0xEE ∧ 0x30 ≤ lo.toNat) := by
  fun_cases decodeHigh hi lo w2
  case case1 =>
    rw [decodeZeroPage_eq_none_iff]
    omega
  case case6 | case7 =>
    simp only [decodeLiteral_ne_none (hi := hi) (lo := lo) (by omega), false_iff]
    omega
  case case2 _ _ h | case3 _ _ h =>
    rw [movlbPattern_iff] at h
    simp only [reduceCtorEq, false_iff, true_iff]
    omega
  case case62 _ _ h | case63 _ _ h =>
    rw [lfsrPattern_iff] at h
    simp only [reduceCtorEq, false_iff, true_iff]
    omega
  case case70 =>
    have := hi.isLt
    simp only [imp_false, true_iff] at *
    omega
  all_goals
    simp only [reduceCtorEq, false_iff, imp_false] at *
    omega

end

/-- The unassigned words as numbers (R160). -/
theorem isAssigned_eq_false_iff {w : Word} : isAssigned w = false ↔
    (w.toNat = 0x0001 ∨ w.toNat = 0x0002 ∨ (0x0014 ≤ w.toNat ∧ w.toNat ≤ 0x00FE) ∨
      (0x0110 ≤ w.toNat ∧ w.toNat ≤ 0x01FF) ∨ (0xE800 ≤ w.toNat ∧ w.toNat ≤ 0xEBFF) ∨
      (0xEE30 ≤ w.toNat ∧ w.toNat ≤ 0xEEFF)) := by
  have := w.isLt
  rw [isAssigned, Option.isSome_eq_false_iff, Option.isNone_iff_eq_none, decodeHigh_eq_none_iff, slice_toNat,
      low_toNat]
  omega

section
variable {s : State}

theorem fetchInstr_of_unassigned (hf : fetchable s s.pc = true) (hu : isAssigned (wordAt s s.pc) = false) :
    fetchInstr s = unassignedWord (wordAt s s.pc) s := by
  rw [fetchInstr, fetchWord_eq, if_pos hf, andThen_of_next, hu]
  rfl

end

/-- Settles O4: the empty places of the opcode map, and the two policies of `unassignedWord`. -/
theorem unassignedWords : Obligations.UnassignedWords := by
  refine ⟨fun w => isAssigned_eq_false_iff, fun s hs ha hf hu => ?_⟩
  rw [step_of_silent hs ha, runInstr, fetchInstr_of_unassigned hf hu, unassignedWord]
  exact ⟨fun h => by rw [h, andThen_of_refused], fun h => by rw [h]; rfl⟩

/-! Two-word instructions (R150, R151, R285) -/

theorem isTwoWordFirst_iff {w : Word} : isTwoWordFirst w = true ↔
    (w.toNat / 2 ^ 12 = 0b1100 ∨ w.toNat / 2 ^ 9 = 0b1110110 ∨ w.toNat / 2 ^ 8 = 0b11101111 ∨
      w.toNat / 2 ^ 6 = 0b1110111000) := by
  have := w.isLt
  simp only [isTwoWordFirst, slice_beq, Bool.or_eq_true, decide_eq_true_eq, BitVec.toNat_ofNat]
  omega

/-- R285: a word that begins 1111 and is decoded as a first word. -/
theorem decodeWords_nop2 {w : Word} (w2 : Word) (h : w.toNat / 2 ^ 12 = 0b1111) :
    ∃ x, decodeWords w w2 = .ok (.nop2 x) := by
  have hw : encodeFirst (.nop2 (w.extractLsb' 0 12)) = w := by
    apply BitVec.eq_of_toNat_eq
    simp only [encodeFirst, append_toNat, slice_toNat, BitVec.toNat_ofNat]
    omega
  have hd := decodeWords_encode (i := .nop2 (w.extractLsb' 0 12)) (w2 := w2) rfl nofun
  exact ⟨_, hw ▸ hd⟩

/-- Settles O5: R150's patterns as numbers, R151 on encoded words, and NOP2 (R285). -/
theorem twoWordInstructions : Obligations.TwoWordInstructions := by
  refine ⟨fun w => isTwoWordFirst_iff, fun i w2 h => ⟨isTwoWordFirst_encode h, ?_⟩, fun w w2 s h => ?_⟩
  · exact ((secondWordOk_iff _ _).1 (secondWordOk_encode h)).1
  · obtain ⟨x, hx⟩ := decodeWords_nop2 w2 h
    exact ⟨x, hx, rfl⟩

/-! The look-ahead of a skip (R152) -/

section
variable {s : State}

theorem skipPc_of_fetchable (h : fetchable s (s.pc + 2) = true) : skipPc s =
    if isAssigned (wordAt s (s.pc + 2)) then .next (skipTarget s)
    else .refused (.unassignedOpcode (s.pc + 2) (wordAt s (s.pc + 2))) := by
  rw [skipPc, fetchWord_eq, if_pos h, andThen_of_next]
  cases isAssigned (wordAt s (s.pc + 2)) <;> rfl

/-- A skip that is refused refuses the test that takes it. -/
theorem testSkip_of_refused {f : Byte} {a : RamSel} {cond : Byte → Bool} {r : Refusal} (hr : canRead f a s = true)
    (hc : cond (fValue f a s) = true) (h : skipPc s = .refused r) : testSkip f a cond s = .refused r := by
  rw [testSkip, readF_of_canRead false hr, andThen_of_next, if_pos hc, h, andThen_of_refused]

end

/-- Settles O33: `Skip()` by the next word, and TSTFSZ as a test that takes it. -/
theorem skipRule : Obligations.SkipRule := by
  intro s hf
  have hskip := skipPc_of_fetchable hf
  have hrefused (hu : isAssigned (wordAt s (s.pc + 2)) = false) :
      skipPc s = .refused (.unassignedOpcode (s.pc + 2) (wordAt s (s.pc + 2))) := by
    rw [hskip, hu]
    rfl
  refine ⟨fun ha => ?_, hrefused, fun f a hr h0 hu => ?_⟩
  · rw [hskip, if_pos ha, skipTarget]
    exact ⟨fun h2 => by rw [if_pos h2], fun h2 => by rw [h2]; rfl⟩
  · have hexec : exec (.tstfsz f a) s = testSkip f a (fun v => v == 0) s := rfl
    rw [hexec]
    exact testSkip_of_refused hr (beq_iff_eq.2 h0) (hrefused hu)

/-! Sample words (R131 to R144, R151, R160) -/

/-- Settles O1: each word's bytes run through `decode`. -/
theorem sampleWordsDecode : Obligations.SampleWordsDecode :=
  ⟨rfl, rfl, rfl, rfl, rfl, rfl, rfl, rfl, rfl, rfl, rfl, rfl, rfl, rfl⟩

end Sys2Proof.Machine
end

section
/-! SUPPORT. The shapes of the file-register operations completing (40_byte_oriented.md R200, R210, R217; 20_memory.md
R103), and what each keeps. -/

namespace Sys2Proof.Machine

variable {i : Instr} {f : Byte} {d : Dest} {a : RamSel} {masked : Bool} {s s' : State} {r : Byte} {fl : Flags}

/-! `byteD` -/

/-- An instruction of this shape, run in a state `b`, completes where its operand can be used; its result and flags
under other names. -/
theorem byteD_completes {fn : ByteFn} {b : State} (hx : exec i s = byteD f d a masked fn b)
    (h : canUse f d a b = true) (hfn : fn (fValue f a b) b.w b.flags = (r, fl)) :
    ∃ s', exec i s = .next s' ∧ ByteOutcome f d a masked b r fl s' := by
  obtain ⟨s', hnext, ho⟩ := byteD_of_canUse (masked := masked) (fn := fn) h
  rw [hfn] at ho
  exact ⟨s', hx.trans hnext, ho⟩

/-- The same with the result as a number. -/
theorem byteD_completes_number {fn : ByteFn} {g : Byte → Flags} {n : Nat} (hx : exec i s = byteD f d a masked fn s)
    (h : canUse f d a s = true) (hfn : fn (fValue f a s) s.w s.flags = (r, g r)) (hn : r.toNat = n) :
    ∃ (s' : State) (r : Byte), exec i s = .next s' ∧ r.toNat = n ∧ ByteOutcome f d a masked s r (g r) s' := by
  obtain ⟨s', hnext, ho⟩ := byteD_completes hx h hfn
  exact ⟨s', r, hnext, hn, ho⟩

theorem literalFlags_eq_false (hv : s.cfg.flagsVariant = .corrected) : literalFlags s = false := by
  rw [literalFlags, hv]
  rfl

theorem literalFlags_eq_true (hv : s.cfg.flagsVariant = .sourceLiteral) : literalFlags s = true := by
  rw [literalFlags, hv]
  rfl

/-- IORWF and NEGF: under `source_literal` no flag, and the data write is not masked (10_state.md R32, R108, log 23). -/
theorem byteD_completes_by_variant {fn : ByteFn} (hx : exec i s = byteD f d a (!literalFlags s) fn s)
    (h : canUse f d a s = true)
    (hfn : fn (fValue f a s) s.w s.flags = (r, if literalFlags s then s.flags else fl)) :
    ∃ s', exec i s = .next s' ∧
      (s.cfg.flagsVariant = .corrected → ByteOutcome f d a true s r fl s') ∧
      (s.cfg.flagsVariant = .sourceLiteral → ByteOutcome f d a false s r s.flags s') := by
  obtain ⟨s', hnext, ho⟩ := byteD_completes hx h hfn
  refine ⟨s', hnext, fun hv => ?_, fun hv => ?_⟩
  · rwa [literalFlags_eq_false hv] at ho
  · rwa [literalFlags_eq_true hv] at ho

/-! `writeOnly` -/

/-- `writeOnly` answers next exactly when the operand resolves, and then as the data write does. -/
theorem writeOnly_eq_next {v : Byte} : writeOnly f a v masked fl s = .next s' ↔ resolvable (ea f a s) s = true ∧
    memWrite (fTarget f a s) v masked (((afterResolve (ea f a s) s).setFlags fl).setPc (s.pc + 2)) = .next s' := by
  have hpc : (afterResolve (ea f a s) s).pc = s.pc := (afterResolve_frame _ s).pc
  unfold writeOnly
  rw [resolve_eq, ← hpc]
  cases resolvable (ea f a s) s with
  | false => simp
  | true => exact ⟨fun h => ⟨rfl, h⟩, fun ⟨_, h⟩ => h⟩

/-- A byte written to RAM is read back (20_memory.md R105, R109). -/
theorem dmByte_of_memWrite {t : DataAddr} {v : Byte} (h : memWrite t v masked s = .next s')
    (hg : gprOk s.cfg t = true) (hwf : Memory.wf .data s.dm = true) : s'.dmByte t = v := by
  obtain rfl := Host.Outcome.next.inj ((memWrite_gpr v masked hg).symm.trans h)
  exact Memory.read_write_same _ _ _ hwf

theorem ReadFrame.sp {b : State} (h : ReadFrame s b) : b.sp = s.sp := by rw [h.eq]

/-- A write to an address that could be written at the start completes in a state with the same RAM, stack pointer and
parameters. -/
theorem memWrite_completes {t : DataAddr} {b : State} (v : Byte) (masked : Bool) (hcfg : b.cfg = s.cfg)
    (hsp : b.sp = s.sp) (hdm : b.dm = s.dm) (hw : writable s t = true) :
    ∃ s', memWrite t v masked b = .next s' ∧
      (gprOk s.cfg t = true → Memory.wf .data s.dm = true → s'.dmByte t = v) := by
  have hmem := memWrite_of_writable v masked ((writable_congr t hcfg hsp).trans hw)
  exact ⟨_, hmem, fun hg hwf => dmByte_of_memWrite hmem (hcfg ▸ hg) (hdm ▸ hwf)⟩

/-- `writeOnly` completes where the operand can be written. -/
theorem writeOnly_completes (v : Byte) (masked : Bool) (fl : Flags) (h : canWrite f a s = true) :
    ∃ s', writeOnly f a v masked fl s = .next s' ∧
      memWrite (fTarget f a s) v masked (((afterResolve (ea f a s) s).setFlags fl).setPc (s.pc + 2)) = .next s' ∧
      (gprOk s.cfg (fTarget f a s) = true → Memory.wf .data s.dm = true → s'.dmByte (fTarget f a s) = v) := by
  obtain ⟨hr, hw⟩ : resolvable (ea f a s) s = true ∧ writable s (fTarget f a s) = true := Bool.and_eq_true _ _ ▸ h
  have hfr := afterResolve_frame (ea f a s) s
  obtain ⟨s', hmem, hback⟩ := memWrite_completes (s := s)
    (b := ((afterResolve (ea f a s) s).setFlags fl).setPc (s.pc + 2)) v masked hfr.steady.cfg hfr.sp hfr.steady.dm hw
  exact ⟨s', writeOnly_eq_next.2 ⟨hr, hmem⟩, hmem, hback⟩

/-! `testSkip` -/

/-- `testSkip` completes where the operand can be read and a skip it takes can be taken. -/
theorem testSkip_completes {cond : Byte → Bool} {c : Bool} (h : canRead f a s = true)
    (hc : cond (fValue f a s) = c) (hs : c = true → skippable s = true) :
    testSkip f a cond s = .next ((fState f a false s).setPc (if c then skipTarget s else s.pc + 2)) := by
  subst hc
  exact testSkip_eq_next.2 ⟨h, hs, rfl⟩

/-! `countSkip` -/

theorem State.setEntry_setPc (s : State) (i : BitVec 5) (v : BitVec 21) (p : ProgAddr) :
    (s.setPc p).setEntry i v = (s.setEntry i v).setPc p := by
  unfold State.setEntry
  split <;> rfl

/-- Of the pc before it a register write keeps nothing but the pc itself. -/
theorem sfrWrite_setPc (q : Sfr) (v : Byte) (masked : Bool) (s : State) (p p' : ProgAddr) :
    (sfrWrite q v masked (s.setPc p)).setPc p' = (sfrWrite q v masked s).setPc p' := by
  cases q with
  | tosu | tosh | tosl =>
    simp only [sfrWrite, State.setPc_sp, State.setPc_entry, State.setEntry_setPc]
    rfl
  | fsrh i | fsrl i => cases i <;> rfl
  | status => cases masked <;> rfl
  | _ => rfl

/-- A write and then a jump: the pc before the write plays no part. -/
theorem memWrite_setPc_then (t : DataAddr) (v : Byte) (masked : Bool) (s : State) (p p' : ProgAddr) :
    andThen (memWrite t v masked (s.setPc p)) (fun s1 => .next (s1.setPc p')) =
      andThen (memWrite t v masked s) (fun s1 => .next (s1.setPc p')) := by
  unfold memWrite
  rw [State.setPc_cfg, State.setPc_sp]
  cases placeOf s.cfg t with
  | gpr | virt => rfl
  | outside => cases s.cfg.periph <;> rfl
  | core q =>
    dsimp only
    split
    · rfl
    · split
      · rfl
      · exact congrArg Host.Outcome.next (sfrWrite_setPc q v masked s p p')

/-- The data write of an instruction's result, with the flags as they were and the pc moved. -/
def storeResult (f : Byte) (d : Dest) (a : RamSel) (r : Byte) (s : State) : Res State :=
  writeDest d (fTarget f a s) r false ((fState f a (d == .f) s).setFlags s.flags).advance

theorem storeResult_eq_next : storeResult f d a r s = .next s' ↔ ByteOutcome f d a false s r s.flags s' :=
  byteD_next_iff_writeDest r s.flags

theorem fState_setFlags_self (f : Byte) (a : RamSel) (wb : Bool) (s : State) :
    (fState f a wb s).setFlags s.flags = fState f a wb s := by
  rw [← (fState_frame f a wb s).flags]
  rfl

/-- A result stored before a jump is stored as without it. -/
theorem storeResult_then_setPc (p : ProgAddr) :
    andThen (writeDest d (fTarget f a s) r false (fState f a (d == .f) s)) (fun s1 => .next (s1.setPc p)) =
      andThen (storeResult f d a r s) (fun s1 => .next (s1.setPc p)) := by
  unfold storeResult
  rw [fState_setFlags_self]
  cases d with
  | w => rfl
  | f => exact (memWrite_setPc_then _ r false _ _ p).symm

/-- A counting skip once its operand is read: where it skips, the look-ahead comes before the write (60_exceptions.md
R353). -/
theorem countSkip_eq {fn : Byte → Byte} {cond : Byte → Bool} (h : canRead f a s = true) :
    countSkip f d a fn cond s =
      if cond (fn (fValue f a s)) then
        andThen (skipPc s) fun p => andThen (storeResult f d a (fn (fValue f a s)) s) fun s1 => .next (s1.setPc p)
      else storeResult f d a (fn (fValue f a s)) s := by
  unfold countSkip
  rw [readF_of_canRead _ h, andThen_of_next]
  simp only [storeResult_then_setPc]
  rw [storeResult, fState_setFlags_self]

/-- What a counting skip answers when it answers next: the result stored as by `byteD` with the flags as they were, and
a skip assigns the pc last (log 17). -/
theorem countSkip_next {fn : Byte → Byte} {cond : Byte → Bool} (h : countSkip f d a fn cond s = .next s') :
    ∃ s1, ByteOutcome f d a false s (fn (fValue f a s)) s.flags s1 ∧
      s' = if cond (fn (fValue f a s)) then s1.setPc (skipTarget s) else s1 := by
  obtain ⟨o, ho, -⟩ := andThen_eq_next.1 h
  obtain ⟨hr, -⟩ := readF_eq_next.1 ho
  rw [countSkip_eq hr] at h
  split at h
  next hc =>
    obtain ⟨p, hp, h⟩ := andThen_eq_next.1 h
    obtain ⟨-, rfl⟩ := skipPc_eq_next.1 hp
    obtain ⟨s1, hs1, h⟩ := andThen_eq_next.1 h
    exact ⟨s1, storeResult_eq_next.1 hs1, ((if_pos hc).trans (Host.Outcome.next.inj h)).symm⟩
  next hc => exact ⟨s', storeResult_eq_next.1 h, (if_neg hc).symm⟩

/-- A counting skip completes where the operand can be used and a skip it takes can be taken. -/
theorem countSkip_completes {fn : Byte → Byte} {cond : Byte → Bool} (h : canUse f d a s = true)
    (hs : cond (fn (fValue f a s)) = true → skippable s = true) :
    ∃ s1, ByteOutcome f d a false s (fn (fValue f a s)) s.flags s1 ∧
      countSkip f d a fn cond s =
        .next (if cond (fn (fValue f a s)) then s1.setPc (skipTarget s) else s1) := by
  obtain ⟨s1, hs1⟩ := ByteOutcome_exists (masked := false) (fn (fValue f a s)) s.flags h
  refine ⟨s1, hs1, ?_⟩
  rw [countSkip_eq (canRead_of_canUse h), storeResult_eq_next.2 hs1]
  split
  next hc => rw [skipPc_eq_next.2 ⟨hs hc, rfl⟩, andThen_of_next, andThen_of_next]
  next => rfl

/-! MOVFF -/

/-- The byte that MOVFF moves (40_byte_oriented.md R217). -/
def sourceValue (fs : DataAddr) (s : State) : Byte := valueAt (targetOf fs s) (afterResolve fs s)

/-- The state in which MOVFF resolves its destination: the source resolved and read. -/
def sourceRead (fs : DataAddr) (s : State) : State := afterRead (targetOf fs s) false (afterResolve fs s)

theorem sourceRead_frame (fs : DataAddr) (s : State) : ReadFrame s (sourceRead fs s) :=
  (afterResolve_frame fs s).trans (afterRead_frame _ false _)

/-- MOVFF once source and destination are resolved. -/
theorem execMovff_eq {fs fd : DataAddr} (hr : resolvable fs s = true) (hread : readable s.cfg (targetOf fs s) = true)
    (hd : resolvable fd (sourceRead fs s) = true) :
    execMovff fs fd s = if movffForbidden s.cfg (targetOf fd (sourceRead fs s)) then
        .refused (.forbiddenMovffDestination (targetOf fd (sourceRead fs s)))
      else memWrite (targetOf fd (sourceRead fs s)) (sourceValue fs s) false
        ((afterResolve fd (sourceRead fs s)).setPc (s.pc + 4)) := by
  have hsource : operandAt fs false s = .next ⟨targetOf fs s, sourceValue fs s, sourceRead fs s⟩ :=
    operandAt_eq_next.2 ⟨hr, hread, rfl⟩
  rw [execMovff, hsource, andThen_of_next, resolve_eq, if_pos hd, andThen_of_next]

/-- What MOVFF has done when it answers next. -/
theorem execMovff_next {fs fd : DataAddr} (h : execMovff fs fd s = .next s') :
    memWrite (targetOf fd (sourceRead fs s)) (sourceValue fs s) false
      ((afterResolve fd (sourceRead fs s)).setPc (s.pc + 4)) = .next s' := by
  obtain ⟨o, ho, hrest⟩ := andThen_eq_next.1 h
  obtain ⟨hr, hread, rfl⟩ := operandAt_eq_next.1 ho
  obtain ⟨q, hq, -⟩ := andThen_eq_next.1 hrest
  have hd : resolvable fd (sourceRead fs s) = true := by
    rw [resolve_eq] at hq
    split at hq
    next hd => exact hd
    next => nomatch hq
  rw [execMovff_eq hr hread hd] at h
  split at h
  · nomatch h
  · exact h

theorem movffForbidden_eq_true {cfg : Config} {t : DataAddr} :
    movffForbidden cfg t = true ↔ ∃ r, sfrAt cfg t = some r ∧ (r = .pcl ∨ isTos r = true) := by
  unfold movffForbidden
  cases sfrAt cfg t <;> simp

/-- R217's four destinations, by their rows of R60. -/
theorem movffForbidden_iff {cfg : Config} (h : cfg.sfrMap = r60Map) (t : DataAddr) :
    movffForbidden cfg t = true ↔ t ∈ [0xFF9#12, 0xFFF#12, 0xFFE#12, 0xFFD#12] := by
  simp only [movffForbidden_eq_true, sfrAt_eq_some, regAt_of_table h, regAt_default_iff]
  rw [List.Perm.mem_iff (l₂ := [0xFFF#12, 0xFFE#12, 0xFFD#12, 0xFF9#12]) (by decide)]
  simp [r60Map, isTos, or_and_right, exists_or]

end Sys2Proof.Machine
end

section
/-! SUPPORT. Each file-register operation by its shape and the function it computes (40_byte_oriented.md R201 to R231,
41_bit_oriented.md R261 to R265). -/

namespace Sys2Proof.Machine

variable (f : Byte) (d : Dest) (b : BitVec 3) (a : RamSel) (s : State)

theorem exec_addwf : exec (.addwf f d a) s = byteD f d a true (fun v w _ => add8 w v false) s := rfl

theorem exec_addwfc : exec (.addwfc f d a) s = byteD f d a true (fun v w fl => add8 w v fl.c) s := rfl

theorem exec_andwf : exec (.andwf f d a) s = byteD f d a true (fun v w fl => (w &&& v, setNZ (w &&& v) fl)) s := rfl

theorem exec_comf : exec (.comf f d a) s = byteD f d a true (fun v _ fl => (~~~v, setNZ (~~~v) fl)) s := rfl

theorem exec_decf : exec (.decf f d a) s = byteD f d a true (fun v _ _ => add8 v 0xFF#8 false) s := rfl

theorem exec_incf : exec (.incf f d a) s = byteD f d a true (fun v _ _ => add8 v 0x01#8 false) s := rfl

theorem exec_iorwf : exec (.iorwf f d a) s = byteD f d a (!literalFlags s)
    (fun v w fl => (w ||| v, if literalFlags s then fl else setNZ (w ||| v) fl)) s := rfl

theorem exec_movf : exec (.movf f d a) s = byteD f d a true (fun v _ fl => (v, setNZ v fl)) s := rfl

theorem exec_negf : exec (.negf f a) s = byteD f .f a (!literalFlags s) (fun v _ fl =>
    ((add8 0x00#8 (~~~v) true).1, if literalFlags s then fl else (add8 0x00#8 (~~~v) true).2)) s := rfl

theorem exec_rlncf : exec (.rlncf f d a) s = byteD f d a true (fun v _ fl =>
    (v.extractLsb' 0 7 ++ v.extractLsb' 7 1, setNZ (v.extractLsb' 0 7 ++ v.extractLsb' 7 1) fl)) s := rfl

theorem exec_rrncf : exec (.rrncf f d a) s = byteD f d a true (fun v _ fl =>
    (v.extractLsb' 0 1 ++ v.extractLsb' 1 7, setNZ (v.extractLsb' 0 1 ++ v.extractLsb' 1 7) fl)) s := rfl

theorem exec_rrcf : exec (.rrcf f d a) s = byteD f d a true (fun v _ fl =>
    (bit fl.c ++ v.extractLsb' 1 7, { setNZ (bit fl.c ++ v.extractLsb' 1 7) fl with c := v.getLsbD 0 })) s := rfl

theorem exec_subfwb : exec (.subfwb f d a) s = byteD f d a true (fun v w fl => add8 w (~~~v) fl.c) s := rfl

theorem exec_subwf : exec (.subwf f d a) s = byteD f d a true (fun v w _ => add8 v (~~~w) true) s := rfl

theorem exec_subwfb : exec (.subwfb f d a) s = byteD f d a true (fun v w fl => add8 v (~~~w) fl.c) s := rfl

theorem exec_swapf : exec (.swapf f d a) s =
    byteD f d a false (fun v _ fl => (v.extractLsb' 0 4 ++ v.extractLsb' 4 4, fl)) s := rfl

theorem exec_xorwf : exec (.xorwf f d a) s = byteD f d a true (fun v w fl => (w ^^^ v, setNZ (w ^^^ v) fl)) s := rfl

/-- RLCF's byte and flags before DC and OV (R221). -/
def rlcfResult : ByteFn := fun v _ fl =>
  (v.extractLsb' 0 7 ++ bit fl.c, { setNZ (v.extractLsb' 0 7 ++ bit fl.c) fl with c := v.msb })

theorem exec_rlcf_corrected {s : State} (hv : s.cfg.flagsVariant = .corrected) :
    exec (.rlcf f d a) s = byteD f d a true rlcfResult s := by
  have hl : literalFlags s = false := literalFlags_eq_false hv
  have hx : exec (.rlcf f d a) s = execRlcf f d a s := rfl
  rw [hx]
  unfold execRlcf
  simp only [rlcfCounted, rlcfFlags, hl, Bool.false_eq_true, if_false]
  rfl

/-- Under `source_literal` DC and OV are free bits and one free value is used up (log 6). -/
theorem exec_rlcf_sourceLiteral {s : State} (hv : s.cfg.flagsVariant = .sourceLiteral) :
    exec (.rlcf f d a) s = byteD f d a true (fun v w fl =>
      ((rlcfResult v w fl).1,
        { (rlcfResult v w fl).2 with dc := freeBit s.freeCtr 0, ov := freeBit s.freeCtr 1 }))
      (s.setFreeCtr (s.freeCtr + 1)) := by
  have hl : literalFlags s = true := literalFlags_eq_true hv
  have hx : exec (.rlcf f d a) s = execRlcf f d a s := rfl
  rw [hx]
  unfold execRlcf
  simp only [rlcfCounted, rlcfFlags, hl, if_true]
  rfl

theorem exec_clrf : exec (.clrf f a) s = writeOnly f a 0x00#8 true { s.flags with z := true } s := rfl

theorem exec_setf : exec (.setf f a) s = writeOnly f a 0xFF#8 false s.flags s := rfl

theorem exec_movwf : exec (.movwf f a) s = writeOnly f a s.w false s.flags s := rfl

theorem exec_cpfseq : exec (.cpfseq f a) s = testSkip f a (fun v => v == s.w) s := rfl

theorem exec_cpfsgt : exec (.cpfsgt f a) s = testSkip f a (fun v => s.w.ult v) s := rfl

theorem exec_cpfslt : exec (.cpfslt f a) s = testSkip f a (fun v => v.ult s.w) s := rfl

theorem exec_tstfsz : exec (.tstfsz f a) s = testSkip f a (fun v => v == 0) s := rfl

theorem exec_btfsc : exec (.btfsc f b a) s = testSkip f a (fun v => !v.getLsbD b.toNat) s := rfl

theorem exec_btfss : exec (.btfss f b a) s = testSkip f a (fun v => v.getLsbD b.toNat) s := rfl

theorem exec_decfsz : exec (.decfsz f d a) s = countSkip f d a (fun v => v - 1) (fun r => r == 0) s := rfl

theorem exec_dcfsnz : exec (.dcfsnz f d a) s = countSkip f d a (fun v => v - 1) (fun r => r != 0) s := rfl

theorem exec_incfsz : exec (.incfsz f d a) s = countSkip f d a (fun v => v + 1) (fun r => r == 0) s := rfl

theorem exec_infsnz : exec (.infsnz f d a) s = countSkip f d a (fun v => v + 1) (fun r => r != 0) s := rfl

theorem exec_bcf : exec (.bcf f b a) s = bitWrite f a (fun v => v &&& ~~~(bitMask b)) s := rfl

theorem exec_bsf : exec (.bsf f b a) s = bitWrite f a (fun v => v ||| bitMask b) s := rfl

theorem exec_btg : exec (.btg f b a) s = bitWrite f a (fun v => v ^^^ bitMask b) s := rfl

end Sys2Proof.Machine
end

section
/-! SUPPORT. What each byte-oriented operation computes (40_byte_oriented.md R201 to R231), and the statements about
them. -/

namespace Sys2Proof.Machine

/-! Sums and differences -/

theorem exec_addlw (k : Byte) (s : State) : exec (.addlw k) s = literalW (add8 s.w k false) s := rfl

theorem exec_sublw (k : Byte) (s : State) : exec (.sublw k) s = literalW (add8 k (~~~s.w) true) s := rfl

/-- Settles O27: `ADD8` is the integer sum (`add8_eq`). -/
theorem additions : Obligations.Additions := by
  intro f d a s
  refine ⟨fun h => ⟨byteD_completes (exec_addwf f d a s) h (add8_eq _ _ _),
    byteD_completes (exec_addwfc f d a s) h (add8_eq _ _ _), byteD_completes (exec_incf f d a s) h (add8_eq _ _ _)⟩,
    fun k => ?_⟩
  rw [exec_addlw, add8_eq]
  rfl

/-- `ADD8` of a complement is the integer difference, a carry standing for no borrow. -/
theorem add8_not_eq (p q : Byte) (c : Bool) : add8 p (~~~q) c = (diffByte p q (!c), diffFlags p q (!c)) := by
  rw [add8_eq, sumByte_not, sumFlags_not]

/-- Taking away a borrow alone is taking away 1. -/
theorem diffByte_borrow (p : Byte) : diffByte p 0 true = diffByte p 1 false := by
  unfold diffByte
  congr 1
  simp

theorem diffFlags_borrow (p : Byte) : diffFlags p 0 true = diffFlags p 1 false := by
  unfold diffFlags
  simp

/-- R209: adding 0xFF is taking away 1. -/
theorem add8_minus_one (p : Byte) : add8 p 0xFF#8 false = (diffByte p 1 false, diffFlags p 1 false) := by
  rw [← diffByte_borrow, ← diffFlags_borrow]
  exact add8_not_eq p 0 false

/-- Settles O28: `ADD8` of the complement (`add8_not_eq`), DECF by `add8_minus_one`. -/
theorem subtractions : Obligations.Subtractions := by
  intro f d a s
  refine ⟨fun h => ⟨byteD_completes (exec_subwf f d a s) h (add8_not_eq _ _ _),
    byteD_completes (exec_subwfb f d a s) h (add8_not_eq _ _ _),
    byteD_completes (exec_subfwb f d a s) h (add8_not_eq _ _ _),
    byteD_completes (exec_decf f d a s) h (add8_minus_one _)⟩, fun k => ?_⟩
  rw [exec_sublw, add8_not_eq]
  rfl

/-- Settles O29: NEGF subtracts from 0 (`add8_not_eq`); the variant decides its status set. -/
theorem negation : Obligations.Negation := by
  intro f a s h
  refine byteD_completes_by_variant (exec_negf f a s) h ?_
  rw [add8_not_eq]
  rfl

/-! Logic, moves and rotates -/

/-- SWAPF's byte (R229). -/
theorem swap_toNat (v : Byte) :
    (v.extractLsb' 0 4 ++ v.extractLsb' 4 4 : Byte).toNat = 16 * (v.toNat % 16) + v.toNat / 16 := by
  have := v.isLt
  rw [append_toNat, low_toNat, slice_toNat]
  omega

/-- Settles O30: `SetNZ` by the result's number (`setNZ_eq`), COMF's and SWAPF's results in numbers. -/
theorem logicalResults : Obligations.LogicalResults := by
  intro f d a s h
  have hnz (r : Byte) : (r, setNZ r s.flags) = (r, resultNZ r s.flags) := by rw [setNZ_eq]
  refine ⟨byteD_completes (exec_andwf f d a s) h (hnz _), byteD_completes (exec_xorwf f d a s) h (hnz _),
    byteD_completes_by_variant (exec_iorwf f d a s) h ?_,
    byteD_completes_number (exec_comf f d a s) h (hnz _) (not_toNat _),
    byteD_completes (exec_movf f d a s) h (hnz _),
    byteD_completes_number (exec_swapf f d a s) h rfl (swap_toNat _)⟩
  rw [setNZ_eq]

/-- RLNCF's byte (R222). -/
theorem rotateLeft_toNat (v : Byte) :
    (v.extractLsb' 0 7 ++ v.extractLsb' 7 1 : Byte).toNat = v.toNat * 2 % 256 + v.toNat / 128 := by
  have := v.isLt
  rw [append_toNat, low_toNat, slice_toNat]
  omega

/-- RRNCF's byte (R224). -/
theorem rotateRight_toNat (v : Byte) :
    (v.extractLsb' 0 1 ++ v.extractLsb' 1 7 : Byte).toNat = v.toNat / 2 + 128 * (v.toNat % 2) := by
  have := v.isLt
  rw [append_toNat, low_toNat, slice_toNat]
  omega

/-- RRCF's byte (R223). -/
theorem rotateRightCarry_toNat (v : Byte) (c : Bool) :
    (bit c ++ v.extractLsb' 1 7 : Byte).toNat = v.toNat / 2 + 128 * c.toNat := by
  have := v.isLt
  rw [append_toNat, slice_toNat, bit_toNat]
  omega

/-- RLCF's byte (R221). -/
theorem rotateLeftCarry_toNat (v : Byte) (c : Bool) :
    (v.extractLsb' 0 7 ++ bit c : Byte).toNat = v.toNat * 2 % 256 + c.toNat := by
  rw [append_toNat, low_toNat, bit_toNat]
  omega

/-! RLCF and the counter of free values -/

theorem afterResolve_setFreeCtr (ea : DataAddr) (s : State) (n : Nat) :
    afterResolve ea (s.setFreeCtr n) = (afterResolve ea s).setFreeCtr n := by
  unfold afterResolve
  rw [State.setFreeCtr_cfg]
  cases virtAt s.cfg ea with
  | none => rfl
  | some q => cases q with | mk form i => cases i <;> rfl

theorem valueAt_setFreeCtr (t : DataAddr) (s : State) (n : Nat) : valueAt t (s.setFreeCtr n) = valueAt t s := by
  unfold valueAt
  rw [State.setFreeCtr_cfg]
  cases placeOf s.cfg t with
  | core r => cases r <;> rfl
  | gpr | virt | outside => rfl

theorem fTarget_setFreeCtr (f : Byte) (a : RamSel) (s : State) (n : Nat) :
    fTarget f a (s.setFreeCtr n) = fTarget f a s := rfl

theorem fValue_setFreeCtr (f : Byte) (a : RamSel) (s : State) (n : Nat) :
    fValue f a (s.setFreeCtr n) = fValue f a s := by
  have hea : ea f a (s.setFreeCtr n) = ea f a s := rfl
  rw [fValue, fTarget_setFreeCtr, hea, afterResolve_setFreeCtr, valueAt_setFreeCtr, fValue]

/-- RLCF's flags by numbers. -/
theorem rlcfResult_eq (v w : Byte) (fl : Flags) : rlcfResult v w fl = (v.extractLsb' 0 7 ++ bit fl.c,
    { resultNZ (v.extractLsb' 0 7 ++ bit fl.c) fl with c := decide (128 ≤ v.toNat) }) := by
  rw [rlcfResult, setNZ_eq, msb_eq]

/-- Settles O31: the four rotated bytes in numbers; RLCF by its variant, which under `source_literal` runs with the next
counter of free values (`exec_rlcf_sourceLiteral`). -/
theorem rotates : Obligations.Rotates := by
  intro f d a s h
  have hnz (r : Byte) : (r, setNZ r s.flags) = (r, resultNZ r s.flags) := by rw [setNZ_eq]
  refine ⟨byteD_completes_number (exec_rlncf f d a s) h (hnz _) (rotateLeft_toNat _),
    byteD_completes_number (exec_rrncf f d a s) h (hnz _) (rotateRight_toNat _),
    byteD_completes_number (exec_rrcf f d a s) h ?_ (rotateRightCarry_toNat _ _), ?_⟩
  · rw [setNZ_eq, byte_bit0]
  · cases hv : s.cfg.flagsVariant with
    | corrected =>
      obtain ⟨s', hx, ho⟩ := byteD_completes (exec_rlcf_corrected f d a hv) h (rlcfResult_eq _ _ _)
      exact ⟨s', _, hx, rotateLeftCarry_toNat _ _, fun _ => ho, nofun⟩
    | sourceLiteral =>
      obtain ⟨s', hx, ho⟩ := byteD_completes (exec_rlcf_sourceLiteral f d a hv) h rfl
      rw [fValue_setFreeCtr, State.setFreeCtr_w, State.setFreeCtr_flags, rlcfResult_eq] at ho
      exact ⟨s', _, hx, rotateLeftCarry_toNat _ _, nofun, fun _ => ⟨_, _, ho⟩⟩

end Sys2Proof.Machine
end

section
/-! SUPPORT. Write-only operations, skips, MOVFF and the products (40_byte_oriented.md R204 to R230). -/

namespace Sys2Proof.Machine

/-- Settles O32: the three instructions of the shape `writeOnly`. -/
theorem writeOnlyOperations : Obligations.WriteOnlyOperations := by
  intro f a s h
  simp only [List.forall_mem_cons, exec_clrf, exec_setf, exec_movwf]
  exact ⟨writeOnly_completes _ _ _ h, writeOnly_completes _ _ _ h, writeOnly_completes _ _ _ h, List.forall_mem_nil _⟩

/-! Skips -/

theorem beq_eq_decide_toNat {n : Nat} (x y : BitVec n) : (x == y) = decide (x.toNat = y.toNat) := by
  rw [Bool.eq_iff_iff, beq_iff_eq, decide_eq_true_eq, BitVec.toNat_inj]

theorem not_getLsbD_eq_decide {n : Nat} (x : BitVec n) (k : Nat) :
    (!x.getLsbD k) = decide (x.toNat / 2 ^ k % 2 = 0) := by
  rw [getLsbD_eq_decide, ← decide_not, decide_eq_decide]
  omega

/-- Settles O34: the six tests of the shape `testSkip`, each condition in numbers. -/
theorem testSkips : Obligations.TestSkips := by
  intro f b a s h
  simp only [List.forall_mem_cons, exec_cpfseq, exec_cpfsgt, exec_cpfslt, exec_tstfsz, exec_btfsc, exec_btfss]
  exact ⟨testSkip_completes h (beq_eq_decide_toNat _ _), testSkip_completes h rfl, testSkip_completes h rfl,
    testSkip_completes h (eq_zero_iff _), testSkip_completes h (not_getLsbD_eq_decide _ _),
    testSkip_completes h (getLsbD_eq_decide _ _), List.forall_mem_nil _⟩

section
variable {i : Instr} {f : Byte} {d : Dest} {a : RamSel} {s : State}

/-- A counting skip whose count is the addition of `n` and whose test is for zero (`skipsOnZero`) or not. -/
theorem countSkip_completes_number {fn : Byte → Byte} {cond : Byte → Bool} {n : Nat} {skipsOnZero : Bool}
    (hx : exec i s = countSkip f d a fn cond s) (hfn : ∀ v, (fn v).toNat = (v.toNat + n) % 256)
    (hcond : ∀ r, cond r = decide (decide (r.toNat = 0) = skipsOnZero)) (h : canUse f d a s = true)
    (hs : decide (((fValue f a s).toNat + n) % 256 = 0) = skipsOnZero → skippable s = true) :
    ∃ (s' s1 : State) (r : Byte), exec i s = .next s' ∧ r.toNat = ((fValue f a s).toNat + n) % 256 ∧
      ByteOutcome f d a false s r s.flags s1 ∧
      s' = if decide (r.toNat = 0) = skipsOnZero then s1.setPc (skipTarget s) else s1 := by
  have hiff : cond (fn (fValue f a s)) = true ↔ decide ((fn (fValue f a s)).toNat = 0) = skipsOnZero := by
    rw [hcond, decide_eq_true_eq]
  obtain ⟨s1, ho, hnext⟩ := countSkip_completes (fn := fn) (cond := cond) h fun hc => hs (hfn _ ▸ hiff.1 hc)
  refine ⟨_, s1, _, hx.trans hnext, hfn _, ho, ?_⟩
  simp only [hiff]

end

theorem sub_one_toNat (v : Byte) : (v - 1).toNat = (v.toNat + 255) % 256 := by
  rw [BitVec.toNat_sub, Nat.add_comm]
  rfl

theorem add_one_toNat (v : Byte) : (v + 1).toNat = (v.toNat + 1) % 256 := BitVec.toNat_add v 1

theorem beq_zero_eq (r : Byte) : (r == 0) = decide (decide (r.toNat = 0) = true) := by
  rw [eq_zero_iff, Bool.decide_eq_true]

theorem bne_zero_eq (r : Byte) : (r != 0) = decide (decide (r.toNat = 0) = false) := by
  rw [bne, eq_zero_iff, Bool.decide_eq_false]

/-- Settles O35: the four instructions of the shape `countSkip`. -/
theorem countingSkips : Obligations.CountingSkips := by
  intro f d a s h
  simp only [List.forall_mem_cons]
  exact ⟨countSkip_completes_number (exec_decfsz f d a s) sub_one_toNat beq_zero_eq h,
    countSkip_completes_number (exec_dcfsnz f d a s) sub_one_toNat bne_zero_eq h,
    countSkip_completes_number (exec_incfsz f d a s) add_one_toNat beq_zero_eq h,
    countSkip_completes_number (exec_infsnz f d a s) add_one_toNat bne_zero_eq h, List.forall_mem_nil _⟩

/-! MOVFF -/

/-- Settles O36: MOVFF by `execMovff_eq`, R217's destinations by their rows (`movffForbidden_iff`). -/
theorem moveFileToFile : Obligations.MoveFileToFile := by
  intro fs fd s ts v s1 td hmap hr hread hd
  have hx : exec (.movff fs fd) s = _ := execMovff_eq hr hread hd
  refine ⟨fun htd => hx.trans (if_pos ((movffForbidden_iff hmap td).2 htd)), fun htd hw => ?_⟩
  have hfr : ReadFrame s (afterResolve fd s1) := (sourceRead_frame fs s).trans (afterResolve_frame fd s1)
  obtain ⟨s', hmem, hback⟩ := memWrite_completes (b := (afterResolve fd s1).setPc (s.pc + 4)) v false
    hfr.steady.cfg hfr.sp hfr.steady.dm hw
  exact ⟨s', (hx.trans (if_neg (htd ∘ (movffForbidden_iff hmap td).1))).trans hmem, hmem, hback⟩

/-! Products -/

/-- A product of bytes does not wrap in sixteen bits. -/
theorem product_toNat (x y : Byte) : (x.zeroExtend 16 * y.zeroExtend 16 : BitVec 16).toNat = x.toNat * y.toNat := by
  have hlt : x.toNat * y.toNat < 2 ^ 8 * 2 ^ 8 := Nat.mul_lt_mul'' x.isLt y.isLt
  simp only [BitVec.truncate_eq_setWidth, BitVec.toNat_mul, BitVec.toNat_setWidth]
  rw [Nat.mod_eq_of_lt (a := x.toNat) (by omega), Nat.mod_eq_of_lt (a := y.toNat) (by omega),
    Nat.mod_eq_of_lt (by omega)]

theorem bytes_toNat (p : BitVec 16) : 256 * (p.extractLsb' 8 8).toNat + (p.extractLsb' 0 8).toNat = p.toNat := by
  have := p.isLt
  rw [low_toNat, slice_toNat]
  omega

/-- Settles O37: `setProd` with the product's two bytes. -/
theorem products : Obligations.Products := by
  intro f a k s
  refine ⟨fun h => ⟨_, _, (bytes_toNat _).trans (product_toNat s.w (fValue f a s)), ?_⟩,
    _, _, (bytes_toNat _).trans (product_toNat s.w k), rfl⟩
  have hx : exec (.mulwf f a) s = execMulwf f a s := rfl
  rw [hx, execMulwf, readF_of_canRead false h, andThen_of_next, ← fState_pc f a false s]
  rfl

end Sys2Proof.Machine
end

section
/-! SUPPORT. What the file-register operations leave unchanged (40_byte_oriented.md R200; 20_memory.md R105, R109). -/

namespace Sys2Proof.Machine

variable {i : Instr} {f : Byte} {d : Dest} {a : RamSel} {masked : Bool} {s s' b : State} {t : DataAddr} {r : Byte}
  {fl : Flags}

/-! Frames that leave open the pc, the flags or the counter of free values: the base follows the end state in them -/

theorem WriteFrame.followPc (h : WriteFrame t b s') : WriteFrame t (b.setPc s'.pc) s' := { h with pc := fun _ => rfl }

theorem WriteFrame.followFlags (h : WriteFrame t b s') : WriteFrame t (b.setFlags s'.flags) s' :=
  { h with flags := fun _ => rfl }

theorem WriteFrame.followFreeCtr (h : WriteFrame t b s') : WriteFrame t (b.setFreeCtr s'.freeCtr) s' :=
  { h with
    hidden := by
      obtain ⟨hasleep, hhold0, hhold1, hhigh, hlow, hinputs, -, hperiph⟩ := h.hidden
      exact ⟨hasleep, hhold0, hhold1, hhigh, hlow, hinputs, rfl, hperiph⟩ }

/-- `b` with the flags, the pc and the counter of free values of `s'`. -/
def following (b s' : State) : State := ((b.setFlags s'.flags).setPc s'.pc).setFreeCtr s'.freeCtr

theorem DestFrame.followAll (h : DestFrame d t b s') : DestFrame d t (following b s') s' := by
  cases d with
  | w =>
    obtain ⟨w, rfl⟩ : ∃ w, s' = b.setW w := ⟨_, h⟩
    rfl
  | f => exact (WriteFrame.followPc (WriteFrame.followFlags h)).followFreeCtr

/-- A jump after the write. -/
theorem DestFrame.setPc (h : DestFrame d t b s') (p : ProgAddr) : DestFrame d t (b.setPc p) (s'.setPc p) := by
  cases d with
  | w => exact congrArg (State.setPc · p) h
  | f => exact { (h : WriteFrame t b s') with pc := fun _ => rfl }

/-! The shapes -/

theorem ByteOutcome.destFrame (h : ByteOutcome f d a masked s r fl s') :
    DestFrame d (fTarget f a s) (following (fState f a (d == .f) s) s') s' := by
  have hframe : DestFrame d (fTarget f a s) (((fState f a (d == .f) s).setFlags fl).setPc (s.pc + 2)) s' := by
    cases d with
    | w =>
      obtain rfl := h
      rfl
    | f => exact memWrite_frame h
  exact hframe.followAll

theorem byteD_destFrame {fn : ByteFn} (hx : exec i s = byteD f d a masked fn b) (h : exec i s = .next s') :
    DestFrame d (fTarget f a b) (following (fState f a (d == .f) b) s') s' :=
  (byteD_eq_next.1 (hx.symm.trans h)).2.destFrame

/-- The same for an instruction that always writes `f`; it uses no free value. -/
theorem byteD_writeFrame {fn : ByteFn} (hx : exec i s = byteD f .f a masked fn s) (h : exec i s = .next s') :
    WriteFrame (fTarget f a s) (((fState f a true s).setFlags s'.flags).setPc s'.pc) s' := by
  have hw := memWrite_frame (byteD_eq_next.1 (hx.symm.trans h)).2
  exact hw.followFlags.followPc

theorem countSkip_destFrame {fn : Byte → Byte} {cond : Byte → Bool} (hx : exec i s = countSkip f d a fn cond s)
    (h : exec i s = .next s') :
    DestFrame d (fTarget f a s) (following (fState f a (d == .f) s) s') s' := by
  obtain ⟨s1, ho, rfl⟩ := countSkip_next (hx.symm.trans h)
  split
  · exact ho.destFrame.setPc (skipTarget s)
  · exact ho.destFrame

theorem writeOnly_writeFrame {v : Byte} (hx : exec i s = writeOnly f a v masked fl s) (h : exec i s = .next s') :
    WriteFrame (fTarget f a s) (((afterResolve (ea f a s) s).setFlags s'.flags).setPc s'.pc) s' := by
  have hw := memWrite_frame (writeOnly_eq_next.1 (hx.symm.trans h)).2
  exact hw.followFlags.followPc

/-! RLCF uses a free value -/

theorem fState_setFreeCtr (f : Byte) (a : RamSel) (wb : Bool) (s : State) (n : Nat) :
    fState f a wb (s.setFreeCtr n) = (fState f a wb s).setFreeCtr n := by
  have hea : ea f a (s.setFreeCtr n) = ea f a s := rfl
  rw [fState, hea, afterResolve_setFreeCtr, fTarget_setFreeCtr, fState]
  unfold afterRead
  rw [State.setFreeCtr_cfg]
  split <;> rfl

theorem rlcf_destFrame (h : exec (.rlcf f d a) s = .next s') :
    DestFrame d (fTarget f a s) (following (fState f a (d == .f) s) s') s' := by
  cases hv : s.cfg.flagsVariant with
  | corrected => exact byteD_destFrame (exec_rlcf_corrected f d a hv) h
  | sourceLiteral =>
    have hframe := byteD_destFrame (exec_rlcf_sourceLiteral f d a hv) h
    rwa [fTarget_setFreeCtr, fState_setFreeCtr] at hframe

/-- Settles O39: a result, and what a write-only operation or MOVFF writes, is one data write (`memWrite_frame`) or
WREG; a skip after it moves the pc only. -/
theorem fileRegisterFrame : Obligations.FileRegisterFrame := by
  intro f d b a s s'
  simp only [List.forall_mem_cons]
  refine ⟨⟨byteD_destFrame (exec_addwf f d a s), byteD_destFrame (exec_addwfc f d a s),
    byteD_destFrame (exec_andwf f d a s), byteD_destFrame (exec_comf f d a s), byteD_destFrame (exec_decf f d a s),
    countSkip_destFrame (exec_decfsz f d a s), countSkip_destFrame (exec_dcfsnz f d a s),
    byteD_destFrame (exec_incf f d a s), countSkip_destFrame (exec_incfsz f d a s),
    countSkip_destFrame (exec_infsnz f d a s), byteD_destFrame (exec_iorwf f d a s),
    byteD_destFrame (exec_movf f d a s), rlcf_destFrame, byteD_destFrame (exec_rlncf f d a s),
    byteD_destFrame (exec_rrcf f d a s), byteD_destFrame (exec_rrncf f d a s), byteD_destFrame (exec_subfwb f d a s),
    byteD_destFrame (exec_subwf f d a s), byteD_destFrame (exec_subwfb f d a s), byteD_destFrame (exec_swapf f d a s),
    byteD_destFrame (exec_xorwf f d a s), List.forall_mem_nil _⟩,
    ⟨byteD_writeFrame (exec_negf f a s), byteD_writeFrame (exec_bcf f b a s), byteD_writeFrame (exec_bsf f b a s),
      byteD_writeFrame (exec_btg f b a s), List.forall_mem_nil _⟩,
    ⟨writeOnly_writeFrame (exec_clrf f a s), writeOnly_writeFrame (exec_setf f a s),
      writeOnly_writeFrame (exec_movwf f a s), List.forall_mem_nil _⟩, fun fs fd h => ?_⟩
  have hw := memWrite_frame (execMovff_next h)
  exact hw.followPc

end Sys2Proof.Machine
end

section
/-! SUPPORT. What the bit-oriented writes compute (41_bit_oriented.md R261, R262, R265), and the statement about them. -/

namespace Sys2Proof.Machine

variable {i : Instr} {f : Byte} {a : RamSel} {s : State}

/-- `1 << b` has the one bit `b`. -/
theorem getLsbD_bitMask (b : BitVec 3) (k : Nat) : (bitMask b).getLsbD k = decide (k = b.toNat) := by
  have hb : b.toNat < 8 := b.isLt
  rw [bitMask, ← BitVec.twoPow_eq, BitVec.getLsbD_twoPow]
  simp [hb, eq_comm]

/-- `r` is `v` with bit `b` set to `c`. -/
structure BitReplaced (b : BitVec 3) (c : Bool) (v r : Byte) : Prop where
  bit : r.getLsbD b.toNat = c
  rest : ∀ k, k ≠ b.toNat → r.getLsbD k = v.getLsbD k

theorem bitReplaced_clear (b : BitVec 3) (v : Byte) : BitReplaced b false v (v &&& ~~~(bitMask b)) where
  bit := by simp [getLsbD_bitMask]
  rest k hk := by
    have hlt : v.getLsbD k = true → k < 8 := BitVec.lt_of_getLsbD
    simpa [getLsbD_bitMask, hk] using hlt

theorem bitReplaced_set (b : BitVec 3) (v : Byte) : BitReplaced b true v (v ||| bitMask b) where
  bit := by simp [getLsbD_bitMask]
  rest k hk := by simp [getLsbD_bitMask, hk]

theorem bitReplaced_toggle (b : BitVec 3) (v : Byte) : BitReplaced b (!v.getLsbD b.toNat) v (v ^^^ bitMask b) where
  bit := by simp [getLsbD_bitMask]
  rest k hk := by simp [getLsbD_bitMask, hk]

/-- The shape `bitWrite` completes with an unmasked write (R260), the flags handed on as they were. -/
theorem bitWrite_completes {b : BitVec 3} {c : Bool} {fn : Byte → Byte} (hx : exec i s = bitWrite f a fn s)
    (h : canUse f .f a s = true) (hfn : BitReplaced b c (fValue f a s) (fn (fValue f a s))) :
    ∃ (s' : State) (r : Byte), exec i s = .next s' ∧ r.getLsbD b.toNat = c ∧
      (∀ k, k ≠ b.toNat → r.getLsbD k = (fValue f a s).getLsbD k) ∧ ByteOutcome f .f a false s r s.flags s' := by
  obtain ⟨s', hnext, ho⟩ := byteD_completes (fn := fun v _ fl => (fn v, fl)) hx h rfl
  exact ⟨s', _, hnext, hfn.bit, hfn.rest, ho⟩

/-- Settles O38: the three instructions of the shape `bitWrite`, each byte bit by bit. -/
theorem bitWrites : Obligations.BitWrites := by
  intro f b a s h
  simp only [List.forall_mem_cons]
  exact ⟨bitWrite_completes (exec_bcf f b a s) h (bitReplaced_clear b _),
    bitWrite_completes (exec_bsf f b a s) h (bitReplaced_set b _),
    bitWrite_completes (exec_btg f b a s) h (bitReplaced_toggle b _), List.forall_mem_nil _⟩

end Sys2Proof.Machine
end

section
/-! SUPPORT. Relative branches, jumps and the instructions that only load a register or change the power bits
(42_control.md R270 to R285, R293; 43_literal.md R313 to R315). -/

namespace Sys2Proof.Machine

variable {s : State}

/-! Targets -/

theorem pc_next_toNat (p : ProgAddr) : ((p + 2).toNat : Int) = (p.toNat + 2) % 2 ^ 21 := by
  rw [BitVec.toNat_add]
  rfl

/-- The shape of R270's targets, for a displacement of any width. -/
theorem relTarget_toNat {w : Nat} (p : ProgAddr) (n : BitVec w) :
    ((p + 2 + 2 * n.signExtend 21 : ProgAddr).toNat : Int) = (p.toNat + 2 + 2 * n.toInt) % 2 ^ 21 := by
  have hn : ((n.signExtend 21).toNat : Int) = n.toInt % 2 ^ 21 := by
    rw [BitVec.signExtend, BitVec.toNat_ofInt]
    omega
  have hmul : ((2 * n.signExtend 21 : ProgAddr).toNat : Int) = 2 * (n.signExtend 21).toNat % 2 ^ 21 := by
    rw [BitVec.toNat_mul]
    rfl
  rw [BitVec.toNat_add, Int.natCast_emod, Int.natCast_add, pc_next_toNat, hmul, hn]
  omega

theorem wordTarget_toNat (k : BitVec 20) : (wordTarget k).toNat = 2 * k.toNat := append_toNat k 0#1

/-! Branches -/

/-- A conditional branch moves the pc only. -/
theorem branchIf_target (cond : Bool) (n : BitVec 8) (s : State) :
    ∃ t : ProgAddr, (t.toNat : Int) = (s.pc.toNat + 2 + if cond then 2 * n.toInt else 0) % 2 ^ 21 ∧
      branchIf cond n s = .next (s.setPc t) := by
  cases cond with
  | false => exact ⟨s.pc + 2, pc_next_toNat s.pc, rfl⟩
  | true => exact ⟨relTarget8 s.pc n, relTarget_toNat s.pc n, rfl⟩

/-- Settles O40: the eight conditional branches are `branchIf` of their flag tests; BRA is a relative target. -/
theorem branches : Obligations.Branches := by
  intro n m s
  simp only [List.forall_mem_cons]
  exact ⟨⟨branchIf_target _ n s, branchIf_target _ n s, branchIf_target _ n s, branchIf_target _ n s,
    branchIf_target _ n s, branchIf_target _ n s, branchIf_target _ n s, branchIf_target _ n s, List.forall_mem_nil _⟩,
    relTarget11 s.pc m, relTarget_toNat s.pc m, rfl⟩

/-! LFSR -/

theorem exec_lfsr (ff : BitVec 2) (k : BitVec 12) (s : State) : exec (.lfsr ff k) s = execLfsr ff k s := rfl

theorem exec_lfsr_of_field {ff : BitVec 2} {i : FsrIdx} (k : BitVec 12) (s : State) (h : fsrOfField ff = some i) :
    exec (.lfsr ff k) s = .next ((s.setFsr i k).setPc (s.pc + 4)) := by
  rw [exec_lfsr, execLfsr, h]

/-- R160, R313: `ff = 11` names no FSR, and P_UNASSIGNED says what the word does. -/
theorem fsrOfField_three : fsrOfField 3 = none := rfl

theorem exec_lfsr_refused (k : BitVec 12) (h : s.cfg.unassigned = .refuse) :
    exec (.lfsr 3 k) s = .refused (.unassignedOpcode s.pc (encodeFirst (.lfsr 3 k))) := by
  simp only [exec_lfsr, execLfsr, fsrOfField_three, h]

theorem exec_lfsr_nop (k : BitVec 12) (h : s.cfg.unassigned = .nop) :
    exec (.lfsr 3 k) s = .next (s.setPc (s.pc + 2)) := by
  simp only [exec_lfsr, execLfsr, fsrOfField_three, h, State.advance]

/-- Settles O41: GOTO's target as a number, LFSR by the register its field names; the others have no case to split. -/
theorem jumpsNopsLoadsAndPower : Obligations.JumpsNopsLoadsAndPower := fun s =>
  ⟨rfl, rfl, fun k => ⟨wordTarget k, wordTarget_toNat k, rfl⟩, rfl, fun _ => rfl,
    fun k => ⟨exec_lfsr_of_field k s (i := .f0) rfl, exec_lfsr_of_field k s (i := .f1) rfl,
      exec_lfsr_of_field k s (i := .f2) rfl, fun h => ⟨_, exec_lfsr_refused k h⟩, exec_lfsr_nop k⟩,
    fun _ => rfl, fun _ => rfl⟩

end Sys2Proof.Machine
end

section
/-! SUPPORT. The fast register stack (10_state.md R50), and the instructions that push and pop where the stack allows it
(42_control.md R280, R286 to R292). -/

namespace Sys2Proof.Machine

variable {s : State}

/-! Save and restore -/

theorem flagsOfByte_statusByte (fl : Flags) : flagsOfByte (statusByte fl) = fl := by
  have hbits : ∀ n ov z dc c : Bool, flagsOfByte (statusByte ⟨n, ov, z, dc, c⟩) = ⟨n, ov, z, dc, c⟩ := by decide
  exact hbits fl.n fl.ov fl.z fl.dc fl.c

/-- A push leaves what `Save()` reads as it was. -/
theorem save_afterPush (v : BitVec 21) (s : State) : save (afterPush v s) =
    { afterPush v s with ws := s.w, statuss := statusByte s.flags, bsrs := s.bsr.zeroExtend 8 } := by
  unfold afterPush
  rw [State.setEntry_eq]
  rfl

/-- `Restore()` reads the shadows only, and gives back what `Save()` read. -/
theorem restore_of_saved {b : State} (hws : b.ws = s.w) (hstatuss : b.statuss = statusByte s.flags)
    (hbsrs : b.bsrs = s.bsr.zeroExtend 8) : restore b = { b with w := s.w, flags := s.flags, bsr := s.bsr } := by
  have hbsr : (s.bsr.zeroExtend 8).extractLsb' 0 4 = s.bsr := by
    rw [← BitVec.toNat_inj, low_toNat, BitVec.toNat_setWidth_of_le (by decide), Nat.mod_eq_of_lt s.bsr.isLt]
  rw [restore, hws, hstatuss, hbsrs, flagsOfByte_statusByte, hbsr]

/-- R290's choice of the enable bit, written out for both bits. -/
theorem reenable_eq (s : State) : reenable s =
    { s with gieh := s.gieh || !s.ipen || !s.gieh, giel := s.giel || (s.ipen && s.gieh) } := by
  unfold reenable
  by_cases hi : s.ipen = true <;> by_cases hg : s.gieh = true <;> simp [State.setGieh, State.setGiel, hi, hg]

/-! CALL, RCALL, PUSH -/

theorem exec_call_fast (k : BitVec 20) (h : canPush s = true) : exec (.call k true) s = .next
    { afterPush (s.pc + 4) s with
      ws := s.w, statuss := statusByte s.flags, bsrs := s.bsr.zeroExtend 8, pc := wordTarget k } := by
  rw [exec_call, pushThen_of_canPush _ _ h, if_pos rfl, save_afterPush]
  rfl

/-- Settles O44: each pushes first (`pushThen_of_canPush`), a fast CALL then saves what the push left. -/
theorem callsAndPush : Obligations.CallsAndPush := by
  intro s h
  refine ⟨fun k => ⟨_, wordTarget k, afterPush_pushed (s.pc + 4) h, wordTarget_toNat k, ?_,
      statusByte s.flags, statusByte_toNat s.flags, ?_⟩,
    _, afterPush_pushed (s.pc + 2) h, ?_, fun n => ⟨relTarget11 s.pc n, relTarget_toNat s.pc n, ?_⟩⟩
  · rw [exec_call, pushThen_of_canPush _ _ h]
    rfl
  · exact exec_call_fast k h
  · rw [exec_push, pushThen_of_canPush _ _ h]
  · rw [exec_rcall, pushThen_of_canPush _ _ h]

/-! RETURN, RETLW, RETFIE, POP -/

/-- Settles O45: each pops first (`popThen_of_ne`), RETFIE then sets its enable bit, and with `s = 1` the shadows come
back. -/
theorem returnsAndPop : Obligations.ReturnsAndPop := by
  intro s h0
  refine ⟨s.popValue, popValue_toNat s, ?_, ?_, fun k => ?_, ⟨flagsOfByte s.statuss, rfl, rfl, rfl, rfl, rfl,
    s.bsrs.extractLsb' 0 4, low_toNat _ 4, ?_, ?_⟩, ?_⟩
  · exact (exec_pop s).trans (popThen_of_ne _ h0)
  · exact (exec_retn s false).trans (popThen_of_ne _ h0)
  · exact (exec_retlw s k).trans (popThen_of_ne (s := s.setW k) _ h0)
  · exact (exec_retn s true).trans (popThen_of_ne _ h0)
  · rw [exec_retfie, popThen_of_ne _ h0, reenable_eq]
    rfl
  · rw [exec_retfie, popThen_of_ne _ h0, reenable_eq]
    rfl

/-! RETURN 1 after CALL k, 1 -/

/-- A pop right after a push of an even address gives it back, whatever else has changed in between. -/
theorem popThen_of_pushed {v : ProgAddr} {b b' : State} (k : ProgAddr → State → Res State) (hv : v.getLsbD 0 = false)
    (hroom : canPush s = true) (h : Pushed v s b) (hstack : b'.stack = b.stack) (hsp : b'.sp = b.sp) :
    popThen b' k = k v (b'.setSp s.sp) := by
  have hsp' : b'.sp = s.sp + 1 := hsp.trans h.sp
  have htop : b'.entry b'.sp = v := by
    rw [← h.top, hsp]
    simp only [State.entry, hstack]
  have hpop : b'.popValue = v := by
    have := pc_even_iff.1 hv
    rw [← BitVec.toNat_inj, popValue_toNat, htop]
    omega
  rw [popThen_of_ne k (hsp' ▸ sp_succ_ne_zero (sp_succ_le_of_canPush hroom)), hpop, hsp', BitVec.add_sub_cancel]

/-- A fast RETURN after a push and a `Save()`, whatever else has changed in between. -/
theorem exec_retn_of_saved {v : ProgAddr} {b b' : State} (hv : v.getLsbD 0 = false) (hroom : canPush s = true)
    (h : Pushed v s b) (hstack : b'.stack = b.stack) (hsp : b'.sp = b.sp) (hws : b'.ws = s.w)
    (hstatuss : b'.statuss = statusByte s.flags) (hbsrs : b'.bsrs = s.bsr.zeroExtend 8) :
    exec (.retn true) b' = .next { b' with sp := s.sp, pc := v, w := s.w, flags := s.flags, bsr := s.bsr } := by
  rw [exec_retn, popThen_of_pushed _ hv hroom h hstack hsp]
  exact congrArg Host.Outcome.next (restore_of_saved (b := (b'.setSp s.sp).setPc v) hws hstatuss hbsrs)

/-- Settles O56: the return pops what the CALL pushed and restores what it saved (`exec_retn_of_saved`); the subroutine
has touched neither. -/
theorem fastCallReturnRestores : Obligations.FastCallReturnRestores := by
  intro k s w fl bsr hpc h
  have hpushed := afterPush_pushed (s.pc + 4) h
  have hdm : (afterPush (s.pc + 4) s).dm = s.dm := by rw [hpushed.frame]
  exact ⟨_, _, exec_call_fast k h, exec_retn_of_saved (pc_even_add hpc rfl) h hpushed rfl rfl rfl rfl rfl,
    rfl, rfl, rfl, rfl, rfl, hdm⟩

end Sys2Proof.Machine
end

section
/-! SUPPORT. Decimal adjustment (42_control.md R282) in natural numbers, and what it makes of a packed-BCD sum. -/

namespace Sys2Proof.Machine

/-! One digit's adjustment -/

/-- What R282 makes of `t`: `v` is added where the digit `x` is above 9 or the carry `b` is set. -/
def adjusted {n : Nat} (x : BitVec 4) (b : Bool) (t v : BitVec n) : BitVec n := if 9#4 < x || b then t + v else t

theorem adjusted_toNat {n : Nat} (x : BitVec 4) (b : Bool) {t v : BitVec n} (h : t.toNat + v.toNat < 2 ^ n) :
    (adjusted x b t v).toNat = t.toNat + if 9 < x.toNat ∨ b = true then v.toNat else 0 := by
  have htest : (decide (9#4 < x) || b) = true ↔ 9 < x.toNat ∨ b = true := by
    rw [Bool.or_eq_true, decide_eq_true_eq, BitVec.lt_def]
    rfl
  simp only [adjusted, htest]
  split
  · exact BitVec.toNat_add_of_lt h
  · rfl

/-! Variant `propagate` -/

/-- The byte after the low digit's adjustment, its carry not cut off. -/
def lowAdjust (w : Nat) (dc : Bool) : Nat := w + if 9 < w % 16 ∨ dc = true then 0x06 else 0

/-- The byte after the high digit's adjustment. -/
def highAdjust (t : Nat) (c : Bool) : Nat := t + if 9 < t / 16 % 16 ∨ c = true then 0x60 else 0

theorem lowAdjust_le (w : Nat) (dc : Bool) : lowAdjust w dc ≤ w + 6 := by
  unfold lowAdjust
  split <;> omega

/-- The low digit's adjustment in the model's ten bits. -/
def dawLow (w : Byte) (dc : Bool) : BitVec 10 := adjusted (w.extractLsb' 0 4) dc (w.zeroExtend 10) 0x06

/-- The high digit's adjustment after it. -/
def dawHigh (w : Byte) (c dc : Bool) : BitVec 10 :=
  adjusted ((dawLow w dc).extractLsb' 4 4) c (dawLow w dc) 0x60

theorem dawPropagate_eq (w : Byte) (c dc : Bool) : dawPropagate w c dc =
    ((dawHigh w c dc).extractLsb' 0 8, c || decide (0x100#10 ≤ dawHigh w c dc)) := rfl

theorem dawLow_toNat (w : Byte) (dc : Bool) : (dawLow w dc).toNat = lowAdjust w.toNat dc := by
  have hw : (w.zeroExtend 10).toNat = w.toNat := BitVec.toNat_setWidth_of_le (by decide)
  have hroom : (w.zeroExtend 10).toNat + (0x06 : BitVec 10).toNat < 2 ^ 10 := by
    have := w.isLt
    simp only [hw, BitVec.reduceToNat]
    omega
  rw [dawLow, adjusted_toNat _ _ hroom, hw, low_toNat]
  rfl

theorem dawHigh_toNat (w : Byte) (c dc : Bool) :
    (dawHigh w c dc).toNat = highAdjust (lowAdjust w.toNat dc) c := by
  have hroom : (dawLow w dc).toNat + (0x60 : BitVec 10).toNat < 2 ^ 10 := by
    have := w.isLt
    have := lowAdjust_le w.toNat dc
    simp only [dawLow_toNat, BitVec.reduceToNat]
    omega
  rw [dawHigh, adjusted_toNat _ _ hroom, slice_toNat, dawLow_toNat]
  rfl

theorem dawPropagate_toNat (w : Byte) (c dc : Bool) :
    (dawPropagate w c dc).1.toNat = highAdjust (lowAdjust w.toNat dc) c % 256 ∧
      (dawPropagate w c dc).2 = (c || decide (0x100 ≤ highAdjust (lowAdjust w.toNat dc) c)) := by
  simp only [dawPropagate_eq, low_toNat, BitVec.le_def, dawHigh_toNat]
  exact ⟨rfl, rfl⟩

/-! Variant `isolated` -/

theorem dawDigit_toNat (x : BitVec 4) (b : Bool) :
    (dawDigit x b).toNat = x.toNat + if 9 < x.toNat ∨ b = true then 6 else 0 := by
  have hx : (x.zeroExtend 5).toNat = x.toNat := BitVec.toNat_setWidth_of_le (by decide)
  have hroom : (x.zeroExtend 5).toNat + (6 : BitVec 5).toNat < 2 ^ 5 := by
    have := x.isLt
    simp only [hx, BitVec.reduceToNat]
    omega
  have heq : dawDigit x b = adjusted x b (x.zeroExtend 5) 6 := rfl
  rw [heq, adjusted_toNat x b hroom, hx]
  rfl

theorem dawIsolated_toNat (w : Byte) (c dc : Bool) :
    (dawIsolated w c dc).1.toNat =
        16 * ((w.toNat / 16 + if 9 < w.toNat / 16 ∨ c = true then 6 else 0) % 16) +
          (w.toNat % 16 + if 9 < w.toNat % 16 ∨ dc = true then 6 else 0) % 16 ∧
      (dawIsolated w c dc).2 =
        (c || decide (16 ≤ w.toNat / 16 + if 9 < w.toNat / 16 ∨ c = true then 6 else 0)) := by
  have hlow : (w.extractLsb' 0 4).toNat = w.toNat % 16 := low_toNat w 4
  have hhigh : (w.extractLsb' 4 4).toNat = w.toNat / 16 := by
    have := w.isLt
    rw [slice_toNat]
    omega
  simp only [dawIsolated, append_toNat, low_toNat, getLsbD_top (n := 4), dawDigit_toNat, hlow, hhigh]
  exact ⟨rfl, rfl⟩

/-- Settles O47: the two variants of `daw` as numbers. -/
theorem decimalAdjust : Obligations.DecimalAdjust := by
  intro s
  refine ⟨(daw s.cfg.dawVariant s.w s.flags.c s.flags.dc).1, (daw s.cfg.dawVariant s.w s.flags.c s.flags.dc).2, rfl,
    fun hv => ?_, fun hv => ?_⟩
  · rw [hv]
    exact dawPropagate_toNat s.w s.flags.c s.flags.dc
  · rw [hv]
    exact dawIsolated_toNat s.w s.flags.c s.flags.dc

/-! Packed-BCD sums: `p` and `q` are the sums of the tens and of the units digits -/

section
variable {p q : Nat}

/-- The low digit is adjusted where the units carry. -/
theorem lowAdjust_sum (hq : q ≤ 18) :
    lowAdjust ((16 * p + q) % 256) (decide (16 ≤ q)) = (16 * p + q) % 256 + if 10 ≤ q then 6 else 0 := by
  have htest : 9 < (16 * p + q) % 256 % 16 ∨ 16 ≤ q ↔ 10 ≤ q := by omega
  simp only [lowAdjust, decide_eq_true_eq, htest]

/-- The high digit is adjusted where the tens carry, unless the low digit's adjustment carries out of the byte. -/
theorem highAdjust_sum (hp : p ≤ 18) (hq : q ≤ 18) {t : Nat}
    (ht : t = (16 * p + q) % 256 + if 10 ≤ q then 6 else 0) :
    highAdjust t (decide (256 ≤ 16 * p + q)) =
      t + if 100 ≤ 10 * p + q ∧ ¬(p = 15 ∧ 10 ≤ q ∧ q ≤ 15) then 0x60 else 0 := by
  have htest : 9 < t / 16 % 16 ∨ 256 ≤ 16 * p + q ↔ 100 ≤ 10 * p + q ∧ ¬(p = 15 ∧ 10 ≤ q ∧ q ≤ 15) := by
    split at ht <;> omega
  simp only [highAdjust, decide_eq_true_eq, htest]

theorem units_of_sum (p : Nat) (hq : q ≤ 18) : (10 * p + q) % 10 = q - if 10 ≤ q then 10 else 0 := by
  split <;> omega

theorem tens_of_sum (hp : p ≤ 18) (hq : q ≤ 18) : (10 * p + q) % 100 / 10 =
    p + (if 10 ≤ q then 1 else 0) - if 100 ≤ 10 * p + q then 10 else 0 := by
  split <;> split <;> omega

/-- DAW after the addition, in the digit sums. -/
theorem bcd_sum_adjusted (hp : p ≤ 18) (hq : q ≤ 18) {t : Nat}
    (ht : t = highAdjust (lowAdjust ((16 * p + q) % 256) (decide (16 ≤ q))) (decide (256 ≤ 16 * p + q))) :
    (256 ≤ 16 * p + q ∨ 256 ≤ t ↔ 100 ≤ 10 * p + q) ∧
      t % 256 = (if p = 15 ∧ 10 ≤ q ∧ q ≤ 15 then 0 else 16 * ((10 * p + q) % 100 / 10)) + (10 * p + q) % 10 := by
  rw [highAdjust_sum hp hq (lowAdjust_sum hq), lowAdjust_sum hq] at ht
  rw [tens_of_sum hp hq, units_of_sum p hq]
  constructor
  · split_ifs at ht <;> omega
  · split_ifs at ht ⊢ <;> omega

/-- DAW where WREG, C and DC are those of the sum `16 * p + q`. -/
theorem exec_daw_of_sum {s : State} (hv : s.cfg.dawVariant = .propagate) (hp : p ≤ 18) (hq : q ≤ 18)
    (hw : s.w.toNat = (16 * p + q) % 256) (hc : s.flags.c = decide (256 ≤ 16 * p + q))
    (hdc : s.flags.dc = decide (16 ≤ q)) :
    ∃ s', exec .daw s = .next s' ∧ s'.flags.c = decide (100 ≤ 10 * p + q) ∧
      s'.w.toNat =
        (if p = 15 ∧ 10 ≤ q ∧ q ≤ 15 then 0 else 16 * ((10 * p + q) % 100 / 10)) + (10 * p + q) % 10 := by
  obtain ⟨r, c, hdaw, hprop, -⟩ := decimalAdjust s
  obtain ⟨t, ht⟩ : ∃ t, t = highAdjust (lowAdjust s.w.toNat s.flags.dc) s.flags.c := ⟨_, rfl⟩
  obtain ⟨hr, hcarry⟩ : r.toNat = t % 256 ∧ c = (s.flags.c || decide (0x100 ≤ t)) := ht ▸ hprop hv
  rw [hw, hc, hdc] at ht
  obtain ⟨hhundreds, hdigits⟩ := bcd_sum_adjusted hp hq ht
  refine ⟨_, hdaw, ?_, hr.trans hdigits⟩
  calc c = (decide (256 ≤ 16 * p + q) || decide (0x100 ≤ t)) := hc ▸ hcarry
    _ = decide (100 ≤ 10 * p + q) := by rw [← Bool.decide_or, decide_eq_decide.2 hhundreds]

end

/-- What ADDLW leaves for DAW: the byte, C and DC of the sum as numbers (R310). -/
theorem exec_addlw_sum (k : Byte) (s : State) : ∃ s', exec (.addlw k) s = .next s' ∧ s'.cfg = s.cfg ∧
    s'.w.toNat = (s.w.toNat + k.toNat) % 256 ∧ s'.flags.c = decide (256 ≤ s.w.toNat + k.toNat) ∧
    s'.flags.dc = decide (16 ≤ s.w.toNat % 16 + k.toNat % 16) := by
  rw [exec_addlw, add8_eq]
  exact ⟨_, rfl, rfl, sumByte_toNat s.w k false, rfl, rfl⟩

/-- Settles O48: ADDLW leaves the digit sums as a number (`exec_addlw_sum`), and DAW makes it the decimal sum
(`exec_daw_of_sum`). -/
theorem bcdAdditionAdjusts : Obligations.BcdAdditionAdjusts := by
  intro s k x y hv hx hy hw hk
  have hsum : s.w.toNat + k.toNat = 16 * (x / 10 + y / 10) + (x % 10 + y % 10) := by omega
  have hunits : s.w.toNat % 16 + k.toNat % 16 = x % 10 + y % 10 := by omega
  have hxy : x + y = 10 * (x / 10 + y / 10) + (x % 10 + y % 10) := by omega
  obtain ⟨s1, hadd, hcfg, hw1, hc1, hdc1⟩ := exec_addlw_sum k s
  rw [hsum] at hw1 hc1
  rw [hunits] at hdc1
  obtain ⟨s2, hdaw, hc2, hw2⟩ := exec_daw_of_sum (hcfg ▸ hv) (by omega) (by omega) hw1 hc1 hdc1
  rw [← hxy] at hc2 hw2
  exact ⟨s1, s2, hadd, hdaw, hc2, hw2⟩

end Sys2Proof.Machine
end

section
/-! SUPPORT. The logical literal operations (43_literal.md R311, R312, R319), and the statement about them. -/

namespace Sys2Proof.Machine

theorem exec_andlw (k : Byte) (s : State) :
    exec (.andlw k) s = literalW (s.w &&& k, setNZ (s.w &&& k) s.flags) s := rfl

theorem exec_iorlw (k : Byte) (s : State) :
    exec (.iorlw k) s = literalW (s.w ||| k, setNZ (s.w ||| k) s.flags) s := rfl

theorem exec_xorlw (k : Byte) (s : State) :
    exec (.xorlw k) s = literalW (s.w ^^^ k, setNZ (s.w ^^^ k) s.flags) s := rfl

/-- A literal instruction whose flags are `SetNZ` of its result, with Z and N by the result's number. -/
theorem literalW_setNZ (r : Byte) (s : State) :
    literalW (r, setNZ r s.flags) s =
      .next (((s.setW r).setFlags (resultNZ r s.flags)).setPc (s.pc + 2)) := by
  rw [setNZ_eq]
  rfl

/-- Settles O49: each is `literalW` of its bitwise result and that result's `SetNZ`. -/
theorem literalLogic : Obligations.LiteralLogic := by
  intro k s
  simp only [List.forall_mem_cons]
  exact ⟨(exec_andlw k s).trans (literalW_setNZ _ s), (exec_iorlw k s).trans (literalW_setNZ _ s),
    (exec_xorlw k s).trans (literalW_setNZ _ s), List.forall_mem_nil _⟩

end Sys2Proof.Machine
end

section
/-! SUPPORT. What a table access does by the place of its pointer (44_table.md R330, R331, R335), and the statements
about the eight table instructions. -/

namespace Sys2Proof.Machine

variable {s : State}

/-! The pointer -/

theorem eq_add_one_of_toNat {x p : BitVec 22} (h : p.toNat = (x.toNat + 1) % 2 ^ 22) : p = x + 1 :=
  BitVec.eq_of_toNat_eq (h.trans (BitVec.toNat_add x 1).symm)

theorem eq_sub_one_of_toNat {x q : BitVec 22} (h : (q.toNat : Int) = ((x.toNat : Int) - 1) % 2 ^ 22) : q = x - 1 := by
  apply BitVec.eq_of_toNat_eq
  rw [BitVec.toNat_sub]
  have hone : (1 : BitVec 22).toNat = 1 := rfl
  omega

/-- Bit 21 of the pointer, which R330 asks for. -/
theorem pointer_bit21 (x : BitVec 22) : x.getLsbD 21 = decide (2 ^ 21 ≤ x.toNat) := getLsbD_top x

theorem pointer_bit21_of_lt {x : BitVec 22} (h : x.toNat < 2 ^ 21) : x.getLsbD 21 = false := by
  rw [pointer_bit21, decide_eq_false (Nat.not_le.2 h)]

theorem pointer_bit0 (x : BitVec 22) : x.getLsbD 0 = decide (x.toNat % 2 = 1) := by
  rw [getLsbD_eq_decide, pow_zero, Nat.div_one]

theorem pointer_address (x : BitVec 22) : x.extractLsb' 0 21 = BitVec.ofNat 21 x.toNat :=
  BitVec.eq_of_toNat_eq ((low_toNat x 21).trans (BitVec.toNat_ofNat x.toNat 21).symm)

/-! The access: what it does, and why it stops -/

theorem tableRead_of_implemented (hlt : s.tblptr.toNat < 2 ^ 21)
    (hok : pmOk s.cfg (BitVec.ofNat 21 s.tblptr.toNat) = true) :
    tableRead s = .next (s.setTablat (Memory.read .program s.pm s.tblptr.toNat)) := by
  simp only [tableRead, pointer_bit21_of_lt hlt, pointer_address, State.pmByte, hok, Bool.true_or, Bool.false_eq_true,
    if_true, if_false, BitVec.toNat_ofNat, Nat.mod_eq_of_lt hlt]

theorem tableRead_of_configSpace (h : 2 ^ 21 ≤ s.tblptr.toNat) :
    tableRead s = .refused (.tableAccessConfigSpace s.tblptr) := by
  rw [tableRead, pointer_bit21, decide_eq_true h, if_pos rfl]

theorem tableRead_of_outside (he : s.cfg.edges = .stop) (hlt : s.tblptr.toNat < 2 ^ 21)
    (hbad : pmOk s.cfg (BitVec.ofNat 21 s.tblptr.toNat) = false) :
    tableRead s = .refused (.tableReadOutsideProgramMemory (BitVec.ofNat 21 s.tblptr.toNat)) := by
  simp only [tableRead, pointer_bit21_of_lt hlt, pointer_address, hbad, he, Bool.false_eq_true, if_false]
  rfl

/-- TABLAT in the holding register that the pointer's bit 0 selects (R335). -/
def held (s : State) : State :=
  { s with
    hold0 := if s.tblptr.toNat % 2 = 0 then s.tablat else s.hold0
    hold1 := if s.tblptr.toNat % 2 = 1 then s.tablat else s.hold1 }

theorem tableWrite_of_short (hw : s.lwrt = false) (hlt : s.tblptr.toNat < 2 ^ 21) : tableWrite s = .next (held s) := by
  simp only [tableWrite, pointer_bit21_of_lt hlt, hw, pointer_bit0, Bool.false_eq_true, if_false, decide_eq_true_eq,
    held]
  rcases Nat.mod_two_eq_zero_or_one s.tblptr.toNat with h | h <;> simp [h]

theorem tableWrite_of_configSpace (h : 2 ^ 21 ≤ s.tblptr.toNat) :
    tableWrite s = .refused (.tableAccessConfigSpace s.tblptr) := by
  rw [tableWrite, pointer_bit21, decide_eq_true h, if_pos rfl]

theorem tableWrite_of_long (hlt : s.tblptr.toNat < 2 ^ 21) (hw : s.lwrt = true) :
    tableWrite s = .refused (.tableWriteNotModelled s.tblptr) := by
  rw [tableWrite, pointer_bit21_of_lt hlt, if_neg Bool.false_ne_true, if_pos hw]

/-! The instructions: the access, then the pointer's move and the pc -/

theorem exec_tblrd (s : State) : exec .tblrd s = andThen (tableRead s) fun s1 => .next s1.advance := rfl

theorem exec_tblrdPostInc (s : State) :
    exec .tblrdPostInc s = andThen (tableRead s) fun s1 => .next (s1.setTblptr (s.tblptr + 1)).advance := rfl

theorem exec_tblrdPostDec (s : State) :
    exec .tblrdPostDec s = andThen (tableRead s) fun s1 => .next (s1.setTblptr (s.tblptr - 1)).advance := rfl

theorem exec_tblrdPreInc (s : State) :
    exec .tblrdPreInc s = andThen (tableRead (s.setTblptr (s.tblptr + 1))) fun s1 => .next s1.advance := rfl

theorem exec_tblwt (s : State) : exec .tblwt s = andThen (tableWrite s) fun s1 => .next s1.advance := rfl

theorem exec_tblwtPostInc (s : State) :
    exec .tblwtPostInc s = andThen (tableWrite s) fun s1 => .next (s1.setTblptr (s.tblptr + 1)).advance := rfl

theorem exec_tblwtPostDec (s : State) :
    exec .tblwtPostDec s = andThen (tableWrite s) fun s1 => .next (s1.setTblptr (s.tblptr - 1)).advance := rfl

theorem exec_tblwtPreInc (s : State) :
    exec .tblwtPreInc s = andThen (tableWrite (s.setTblptr (s.tblptr + 1))) fun s1 => .next s1.advance := rfl

theorem exec_begins_with_tableRead (s : State) :
    ∀ i ∈ [Instr.tblrd, .tblrdPostInc, .tblrdPostDec], ∃ k, exec i s = andThen (tableRead s) k := by
  simp only [List.forall_mem_cons]
  exact ⟨⟨_, exec_tblrd s⟩, ⟨_, exec_tblrdPostInc s⟩, ⟨_, exec_tblrdPostDec s⟩, List.forall_mem_nil _⟩

theorem exec_begins_with_tableWrite (s : State) :
    ∀ i ∈ [Instr.tblwt, .tblwtPostInc, .tblwtPostDec], ∃ k, exec i s = andThen (tableWrite s) k := by
  simp only [List.forall_mem_cons]
  exact ⟨⟨_, exec_tblwt s⟩, ⟨_, exec_tblwtPostInc s⟩, ⟨_, exec_tblwtPostDec s⟩, List.forall_mem_nil _⟩

theorem exec_table_next {i : Instr} {b b' : State} {x : Res State} {k : State → Res State}
    (hx : exec i s = andThen x k) (h : x = .next b) (hk : k b = .next b') : exec i s = .next b' := by
  rw [hx, h, andThen_of_next, hk]

theorem exec_table_refused {i : Instr} {e : Refusal} {x : Res State} {k : State → Res State}
    (hx : exec i s = andThen x k) (h : x = .refused e) : exec i s = .refused e := by
  rw [hx, h, andThen_of_refused]

/-- Settles O50: the byte that `tableRead` delivers (`tableRead_of_implemented`) at the pointer itself, or at the
incremented one for the pre-increment. -/
theorem tableReads : Obligations.TableReads := by
  intro s p q hp hq
  obtain rfl := eq_add_one_of_toNat hp
  obtain rfl := eq_sub_one_of_toNat hq
  refine ⟨fun hlt hok => ?_, fun hlt hok => ?_⟩
  · have hread := tableRead_of_implemented hlt hok
    exact ⟨exec_table_next (exec_tblrd s) hread rfl, exec_table_next (exec_tblrdPostInc s) hread rfl,
      exec_table_next (exec_tblrdPostDec s) hread rfl⟩
  · have hread := tableRead_of_implemented (s := s.setTblptr (s.tblptr + 1)) hlt hok
    exact exec_table_next (exec_tblrdPreInc s) hread rfl

/-- Settles O51: the holding register that `tableWrite` fills (`tableWrite_of_short`) by the pointer itself, or by the
incremented one for the pre-increment. -/
theorem tableWrites : Obligations.TableWrites := by
  intro s p q hw hp hq
  obtain rfl := eq_add_one_of_toNat hp
  obtain rfl := eq_sub_one_of_toNat hq
  refine ⟨fun hlt => ⟨_, _, rfl, rfl, ?_⟩, fun hlt => ⟨_, _, rfl, rfl, ?_⟩⟩
  · have hwrite := tableWrite_of_short hw hlt
    exact ⟨exec_table_next (exec_tblwt s) hwrite rfl, exec_table_next (exec_tblwtPostInc s) hwrite rfl,
      exec_table_next (exec_tblwtPostDec s) hwrite rfl⟩
  · have hwrite := tableWrite_of_short (s := s.setTblptr (s.tblptr + 1)) hw hlt
    exact exec_table_next (exec_tblwtPreInc s) hwrite rfl

/-- Settles O52: every table instruction begins with its access, at the pointer or at the incremented one, and the
access's stop is the instruction's (`exec_table_refused`). -/
theorem tableStops : Obligations.TableStops := by
  intro s he
  refine ⟨fun i hi => ?_, fun i hi => ?_, ?_⟩
  · obtain ⟨k, hk⟩ := exec_begins_with_tableRead s i hi
    exact ⟨fun h => exec_table_refused hk (tableRead_of_configSpace h),
      fun hlt hbad => exec_table_refused hk (tableRead_of_outside he hlt hbad)⟩
  · obtain ⟨k, hk⟩ := exec_begins_with_tableWrite s i hi
    exact ⟨fun h => exec_table_refused hk (tableWrite_of_configSpace h),
      fun hlt hw => exec_table_refused hk (tableWrite_of_long hlt hw)⟩
  · rintro _ rfl
    have hread := exec_tblrdPreInc s
    have hwrite := exec_tblwtPreInc s
    exact ⟨fun h => ⟨exec_table_refused hread (tableRead_of_configSpace h),
        exec_table_refused hwrite (tableWrite_of_configSpace h)⟩,
      fun hlt hw => exec_table_refused hwrite (tableWrite_of_long hlt hw),
      fun hlt hbad => exec_table_refused hread (tableRead_of_outside he hlt hbad)⟩

end Sys2Proof.Machine
end

section
/-! SUPPORT. What a boundary does by its input: the instruction at the pc, an interrupt's entry, standby and waking
(60_exceptions.md R353, R361, R370), and the statements about them. -/

namespace Sys2Proof.Machine

variable {s : State} {i : Instr}

/-! The instruction decoded at the pc (30_encoding.md R162) -/

section
variable {b0 b1 b2 b3 : Byte}

/-- Two bytes that are one instruction are the one word of it. -/
theorem decode_two_bytes (h : decode [b0, b1] = .ok (i, [])) :
    isAssigned (wordOfBytes b0 b1) = true ∧ isTwoWordFirst (wordOfBytes b0 b1) = false ∧
      decodeWords (wordOfBytes b0 b1) 0 = .ok i := by
  unfold decode at h
  dsimp only at h
  split at h
  next => nomatch h
  next ha =>
    split at h
    next => nomatch h
    next ht =>
      split at h
      next j hj =>
        obtain ⟨rfl, -⟩ := Prod.mk.inj (Except.ok.inj h)
        exact ⟨by simpa using ha, by simpa using ht, (decodeChecked_eq_ok hj).1⟩
      next => nomatch h

/-- Four bytes that are one instruction are the two words of it. -/
theorem decode_four_bytes (h : decode [b0, b1, b2, b3] = .ok (i, [])) :
    isAssigned (wordOfBytes b0 b1) = true ∧ isTwoWordFirst (wordOfBytes b0 b1) = true ∧
      secondWordOk (wordOfBytes b0 b1) (wordOfBytes b2 b3) = true ∧
      decodeWords (wordOfBytes b0 b1) (wordOfBytes b2 b3) = .ok i := by
  unfold decode at h
  dsimp only at h
  split at h
  next => nomatch h
  next ha =>
    split at h
    next ht =>
      split at h
      next j hj =>
        obtain ⟨rfl, -⟩ := Prod.mk.inj (Except.ok.inj h)
        obtain ⟨hd, h2⟩ := decodeChecked_eq_ok hj
        exact ⟨by simpa using ha, ht, h2 ht, hd⟩
      next => nomatch h
    next =>
      split at h
      next j hj => nomatch (Prod.mk.inj (Except.ok.inj h)).2
      next => nomatch h

end

theorem fetchInstr_of_oneWord (hf : fetchable s s.pc = true) (ha : isAssigned (wordAt s s.pc) = true)
    (ht : isTwoWordFirst (wordAt s s.pc) = false) (hd : decodeWords (wordAt s s.pc) 0#16 = .ok i) :
    fetchInstr s = .next (some i) := by
  unfold fetchInstr
  simp only [fetchWord_eq, hf, ha, ht, hd, if_true, andThen_of_next, Bool.not_true, Bool.false_eq_true, if_false,
    Bool.false_and]

theorem fetchInstr_of_twoWords (hf : fetchable s s.pc = true) (ha : isAssigned (wordAt s s.pc) = true)
    (ht : isTwoWordFirst (wordAt s s.pc) = true) (hf2 : fetchable s (s.pc + 2) = true)
    (h2 : secondWordOk (wordAt s s.pc) (wordAt s (s.pc + 2)) = true)
    (hd : decodeWords (wordAt s s.pc) (wordAt s (s.pc + 2)) = .ok i) : fetchInstr s = .next (some i) := by
  unfold fetchInstr
  simp only [fetchWord_eq, hf, hf2, ha, ht, h2, hd, if_true, andThen_of_next, Bool.not_true, Bool.false_eq_true,
    if_false, Bool.and_false, Bool.false_and]

theorem runInstr_of_fetch (h : fetchInstr s = .next (some i)) : runInstr s = exec i s := by
  rw [runInstr, h, andThen_of_next]

/-! The input of this boundary -/

theorem currentInput_of_nil (hin : s.inputs = []) : currentInput s = Input.silent := by rw [currentInput, hin]

theorem currentInput_of_cons {j : Input} {rest : List Input} (hin : s.inputs = j :: rest) : currentInput s = j := by
  rw [currentInput, hin]

/-- Taking the input changes nothing that decides what the boundary does. -/
theorem takeInput_decides (s : State) : (takeInput s).asleep = s.asleep ∧ (takeInput s).heldHigh = s.heldHigh ∧
    (takeInput s).heldLow = s.heldLow := by
  unfold takeInput
  split <;> exact ⟨rfl, rfl, rfl⟩

theorem requested_takeInput (s : State) : irqLevel (pendingHigh (currentInput s) (takeInput s))
    (pendingLow (currentInput s) (takeInput s)) (takeInput s) = requested s := by
  obtain ⟨-, hhigh, hlow⟩ := takeInput_decides s
  rw [irqLevel_takeInput, pendingHigh, pendingLow, hhigh, hlow]
  rfl

/-! The awake core -/

section
variable {j : Input} (hr : j.reset = none) (hw : j.wdtTimeout = false) (ha : s.asleep = false)
include hr hw ha

theorem boundary_of_requested {level : Level} (hl : irqLevel (pendingHigh j s) (pendingLow j s) s = some level) :
    boundary j s = enterInterrupt level (s.setHeld false false) := by
  simp only [boundary, hr, hw, ha, hl, Bool.false_eq_true, if_false]

theorem boundary_of_not_requested (hl : irqLevel (pendingHigh j s) (pendingLow j s) s = none) :
    boundary j s = runInstr (s.setHeld false false) := by
  simp only [boundary, hr, hw, ha, hl, Bool.false_eq_true, if_false]

end

theorem undisturbed_iff : undisturbed s = true ↔
    (currentInput s).reset = none ∧ (currentInput s).wdtTimeout = false ∧ s.asleep = false := by
  simp [undisturbed, and_assoc]

/-- A request that may be taken is taken, before the instruction at the pc (60_exceptions.md R361). -/
theorem step_of_requested (h : undisturbed s = true) {level : Level} (hl : requested s = some level) :
    step s = enterInterrupt level (atBoundary s) := by
  obtain ⟨hr, hw, ha⟩ := undisturbed_iff.1 h
  rw [step, boundary_of_requested hr hw ((takeInput_decides s).1.trans ha) ((requested_takeInput s).trans hl),
    atBoundary_eq]

theorem step_of_not_requested (h : undisturbed s = true) (hl : requested s = none) :
    step s = runInstr (atBoundary s) := by
  obtain ⟨hr, hw, ha⟩ := undisturbed_iff.1 h
  rw [step, boundary_of_not_requested hr hw ((takeInput_decides s).1.trans ha) ((requested_takeInput s).trans hl),
    atBoundary_eq]

/-- What a boundary uses up plays no part in the fetch. -/
theorem fetchInstr_atBoundary (s : State) : fetchInstr (atBoundary s) = fetchInstr s := by
  refine fetchInstr_congr ?_ ?_ ?_ <;> rw [atBoundary_frame]

/-- Settles O6: the bytes decode as the fetch does (`decode_two_bytes`, `decode_four_bytes`), and a boundary that takes
no request runs what is fetched. -/
theorem stepRunsDecoded : Obligations.StepRunsDecoded := by
  intro s i hf hdecode
  have hfetch : fetchInstr s = .next (some i) := by
    rcases hdecode with hd | ⟨hf2, hd⟩
    · obtain ⟨ha, ht, hd⟩ := decode_two_bytes hd
      exact fetchInstr_of_oneWord hf ha ht hd
    · obtain ⟨ha, ht, h2, hd⟩ := decode_four_bytes hd
      exact fetchInstr_of_twoWords hf ha ht hf2 h2 hd
  refine ⟨fun hu hl => ?_, fun hs ha => ?_⟩
  · rw [step_of_not_requested hu hl]
    exact runInstr_of_fetch ((fetchInstr_atBoundary s).trans hfetch)
  · rw [step_of_silent hs ha]
    exact runInstr_of_fetch hfetch

/-! Recognising a request (60_exceptions.md R361) -/

section
variable {h l : Bool}

theorem irqLevel_of_ipen (hi : s.ipen = true) : irqLevel h l s =
    if h && s.gieh then some .high else if l && s.gieh && s.giel then some .low else none := by
  rw [irqLevel, if_pos hi]

theorem irqLevel_of_not_ipen (hi : s.ipen = false) :
    irqLevel h l s = if (h || l) && s.gieh then some .high else none := by
  rw [irqLevel, hi]
  rfl

theorem irqLevel_eq_high_iff : irqLevel h l s = some .high ↔
    (s.ipen = false ∧ (h = true ∨ l = true) ∧ s.gieh = true) ∨ (s.ipen = true ∧ h = true ∧ s.gieh = true) := by
  cases hi : s.ipen with
  | false =>
    rw [irqLevel_of_not_ipen hi]
    split <;> simp_all
  | true =>
    rw [irqLevel_of_ipen hi]
    split
    · simp_all
    · split <;> simp_all

theorem irqLevel_eq_low_iff : irqLevel h l s = some .low ↔
    s.ipen = true ∧ ¬(h = true ∧ s.gieh = true) ∧ l = true ∧ s.gieh = true ∧ s.giel = true := by
  cases hi : s.ipen with
  | false =>
    rw [irqLevel_of_not_ipen hi]
    split <;> simp
  | true =>
    rw [irqLevel_of_ipen hi]
    split
    · simp_all
    · split <;> simp_all

end

/-- Settles O53: R361's condition case by case, and at a boundary of the awake core `step_of_requested`. -/
theorem interruptRecognition : Obligations.InterruptRecognition := by
  refine ⟨fun h l s => ⟨irqLevel_eq_high_iff, irqLevel_eq_low_iff⟩, fun s i rest level hin hr hw ha hl => ?_,
    fun s level hin ha hl => ?_⟩
  · have hcur := currentInput_of_cons hin
    have hat : atBoundary s = { s with
        inputs := rest, periphIn := Memory.writeAll .periph s.periphIn i.periph
        heldHigh := false, heldLow := false } := by
      rw [atBoundary, hin]
    rw [← hat]
    refine step_of_requested (undisturbed_iff.2 ?_) ?_
    · rw [hcur]
      exact ⟨hr, hw, ha⟩
    · rw [requested, hcur, hl]
  · have hcur := currentInput_of_nil hin
    have hat : atBoundary s = { s with heldHigh := false, heldLow := false } := by rw [atBoundary, hin]
    rw [← hat]
    refine step_of_requested (undisturbed_iff.2 ?_) ?_
    · rw [hcur]
      exact ⟨rfl, rfl, ha⟩
    · rw [requested, hcur]
      exact hl

/-! Standby (60_exceptions.md R370) -/

theorem boundary_asleep {j : Input} (hr : j.reset = none) (ha : s.asleep = true) :
    boundary j s = if wakes j s then runInstr (wakeUp j s) else .next s := by
  unfold boundary
  rw [hr, if_pos ha]

/-- A step of the sleeping core with no request latched before: what is pending is the oracle's, and waking latches it
where it may be taken. -/
theorem step_of_asleep (ha : s.asleep = true) (hhigh : s.heldHigh = false) (hlow : s.heldLow = false) {j : Input}
    (hj : currentInput s = j) (hr : j.reset = none) :
    step s = if j.wdtTimeout || j.irqHigh || j.irqLow then
        runInstr { takeInput s with
          asleep := false
          toBit := (takeInput s).toBit && !j.wdtTimeout
          heldHigh := (irqLevel j.irqHigh j.irqLow s).isSome && j.irqHigh
          heldLow := (irqLevel j.irqHigh j.irqLow s).isSome && j.irqLow }
      else .next (takeInput s) := by
  obtain ⟨hasleep, hheld, hheld'⟩ := takeInput_decides s
  have hpending : pendingHigh j (takeInput s) = j.irqHigh := by rw [pendingHigh, hheld, hhigh, Bool.or_false]
  have hpending' : pendingLow j (takeInput s) = j.irqLow := by rw [pendingLow, hheld', hlow, Bool.or_false]
  rw [step, hj, boundary_asleep hr (hasleep.trans ha), wakes, wakeUp, hpending, hpending', irqLevel_takeInput]
  rfl

/-- A request that may be taken is there. -/
theorem irq_of_irqLevel_ne_none {h l : Bool} (hl : irqLevel h l s ≠ none) : (h || l) = true := by
  refine Bool.eq_true_of_not_eq_false fun hno => hl ?_
  obtain ⟨rfl, rfl⟩ := Bool.or_eq_false_iff.1 hno
  exact irqLevel_none s

/-- Settles O58: the step of a sleeping core (`step_of_asleep`) by what its input holds. -/
theorem standbyAndWakeUp : Obligations.StandbyAndWakeUp := by
  intro s ha hhigh hlow
  refine ⟨fun hin => ?_, fun i rest hin hr hperiph => ?_⟩
  · have hcur := currentInput_of_nil hin
    have htake : takeInput s = s := by rw [takeInput, hin]
    rw [step_of_asleep ha hhigh hlow hcur rfl, htake]
    rfl
  · have hcur := currentInput_of_cons hin
    have htake : takeInput s = { s with inputs := rest } := by
      rw [takeInput, hin]
      simp only [hperiph]
      rfl
    have hstep := step_of_asleep ha hhigh hlow hcur hr
    rw [htake] at hstep
    refine ⟨fun hw hh hl => ?_, fun hw hh hl => ?_, fun hw hreq hl => ?_, fun hw hl => ?_⟩
    · simpa [hw, hh, hl] using hstep
    · simpa [hw, hh, hl, irqLevel_none, hhigh, hlow] using hstep
    · simpa [hw, hreq, hl, hhigh, hlow] using hstep
    · have hreq := irq_of_irqLevel_ne_none hl
      simpa [hw, hreq, Option.isSome_iff_ne_none.2 hl] using hstep

end Sys2Proof.Machine
end

section
/-! SUPPORT. Taking an interrupt where the stack has room, what it leaves for the next request, and returning from it
(60_exceptions.md R360, R363, R364), and the statements about them. -/

namespace Sys2Proof.Machine

variable {s s1 : State} {level : Level} {h l : Bool}

/-! Entry (R360, R365) -/

/-- The interrupt is taken at the low level, whose enable bit is GIEL; otherwise the enable bit is GIEH. -/
def takenLow (level : Level) (s : State) : Bool := s.ipen && level == .low

theorem vector_eq (level : Level) (s : State) :
    vector s.ipen level = if takenLow level s then 0x000018#21 else 0x000008#21 := rfl

/-- The state after an interrupt entry whose push had room. -/
def entered (level : Level) (s : State) : State :=
  { afterPush s.pc s with
    ws := s.w
    statuss := statusByte s.flags
    bsrs := s.bsr.zeroExtend 8
    gieh := s.gieh && takenLow level s
    giel := s.giel && !takenLow level s
    pc := vector s.ipen level
    asleep := false }

/-- A push reads and writes the return stack only. -/
theorem afterPush_enables (v : BitVec 21) (s : State) : (afterPush v s).ipen = s.ipen ∧ (afterPush v s).gieh = s.gieh ∧
    (afterPush v s).giel = s.giel := by
  unfold afterPush
  rw [State.setEntry_eq]
  exact ⟨rfl, rfl, rfl⟩

theorem enterInterrupt_of_canPush (level : Level) (hroom : canPush s = true) :
    enterInterrupt level s = .next (entered level s) := by
  obtain ⟨hipen, hgieh, hgiel⟩ := afterPush_enables s.pc s
  rw [enterInterrupt, pushThen_of_canPush _ _ hroom, afterEntryPush, save_afterPush, entered, takenLow]
  simp only [hipen]
  cases hlow : s.ipen && level == .low with
  | true => simp [State.setGiel, State.setPc, State.setAsleep, hgieh]
  | false => simp [State.setGieh, State.setPc, State.setAsleep, hgiel]

/-- With `edges = stop` an entry that does not stop had room on the stack. -/
theorem enterInterrupt_next (he : s.cfg.edges = .stop) (hnext : enterInterrupt level s = .next s1) :
    s1 = entered level s := by
  have hroom : canPush s = true := by
    rcases pushThen_next hnext with ⟨hlt, -⟩ | ⟨hf, hv, -⟩ | ⟨-, -, hh, -⟩ | ⟨-, -, hh, -⟩ | ⟨-, -, hh, -⟩
    · simp [canPush, hlt]
    · simp [canPush, hf, hv]
    all_goals exact nomatch he.symm.trans hh
  exact (Host.Outcome.next.inj ((enterInterrupt_of_canPush level hroom).symm.trans hnext)).symm

theorem takenLow_eq_false_iff : takenLow level s = false ↔ s.ipen = false ∨ level = .high := by
  cases level <;> simp [takenLow]

theorem takenLow_low (hi : s.ipen = true) : takenLow .low s = true := by
  rw [takenLow, hi]
  rfl

/-- Settles O54: the push has room (`afterPush_pushed`), and the rest of the entry is `entered`. -/
theorem interruptEntry : Obligations.InterruptEntry := by
  intro level s hroom
  obtain ⟨-, hgieh, hgiel⟩ := afterPush_enables s.pc s
  refine ⟨_, statusByte s.flags, afterPush_pushed s.pc hroom, statusByte_toNat s.flags, fun hhigh => ?_, ?_⟩
  · have hlow := takenLow_eq_false_iff.2 hhigh
    rw [enterInterrupt_of_canPush level hroom, entered, vector_eq, hlow]
    simp [hgiel]
  · rintro ⟨hi, rfl⟩
    rw [enterInterrupt_of_canPush .low hroom, entered, vector_eq, takenLow_low hi]
    simp [hgieh]

/-! Nesting (R363) -/

theorem irqLevel_of_disabled (hg : s.gieh = false) : irqLevel h l s = none := by
  cases hi : s.ipen with
  | false => rw [irqLevel_of_not_ipen hi, hg, Bool.and_false]; rfl
  | true => rw [irqLevel_of_ipen hi, hg, Bool.and_false, Bool.and_false]; rfl

theorem gieh_of_irqLevel (hl : irqLevel h l s = some level) : s.gieh = true :=
  Bool.eq_true_of_not_eq_false fun hg => nomatch (irqLevel_of_disabled hg).symm.trans hl

/-- After a high-level entry nothing is taken. -/
theorem irqLevel_entered_high : irqLevel h l (entered .high s) = none :=
  irqLevel_of_disabled (by simp [entered, takenLow])

/-- After a low-level entry only a high-level request is. -/
theorem irqLevel_entered_low (hi : s.ipen = true) (hg : s.gieh = true) :
    irqLevel h l (entered .low s) = if h then some .high else none := by
  have hi' : (entered .low s).ipen = true := (afterPush_enables s.pc s).1.trans hi
  have hlow := takenLow_low hi
  rw [irqLevel_of_ipen hi']
  simp [entered, hg, hlow]

theorem entered_cfg (level : Level) (s : State) : (entered level s).cfg = s.cfg := by simp [entered, afterPush]

/-- Settles O57: what an entry leaves of the enable bits (`entered`), put into R361's condition. -/
theorem nestingIsTwoDeep : Obligations.NestingIsTwoDeep := by
  intro s s1 h l he
  refine ⟨fun hs1 => ?_, fun hi hl hs1 => ?_⟩
  · obtain rfl := enterInterrupt_next he hs1
    exact irqLevel_entered_high
  · obtain rfl := enterInterrupt_next he hs1
    refine ⟨irqLevel_entered_low hi (gieh_of_irqLevel hl), fun s2 hs2 h' l' => ?_⟩
    obtain rfl := enterInterrupt_next ((congrArg Config.edges (entered_cfg .low s)).trans he) hs2
    exact irqLevel_entered_high

/-! RETFIE 1 right after the entry (R364) -/

/-- The low level is taken with its enable bit set. -/
theorem giel_of_takenLow (hl : irqLevel h l s = some level) (hlow : takenLow level s = true) : s.giel = true := by
  cases level with
  | high => simp [takenLow] at hlow
  | low =>
    obtain ⟨-, -, -, -, hgiel⟩ := irqLevel_eq_low_iff.1 hl
    exact hgiel

/-- The bit that RETFIE sets is the one that the entry cleared (42_control.md R290). -/
theorem enables_restored (hl : irqLevel h l s = some level) :
    (s.gieh && takenLow level s || !s.ipen || !(s.gieh && takenLow level s)) = s.gieh ∧
      (s.giel && !takenLow level s || s.ipen && (s.gieh && takenLow level s)) = s.giel := by
  have hgieh := gieh_of_irqLevel hl
  cases hlow : takenLow level s with
  | false => simp [hgieh]
  | true =>
    have hipen : s.ipen = true := (Bool.and_eq_true_iff.1 hlow).1
    simp [hgieh, giel_of_takenLow hl hlow, hipen]

theorem exec_retfie_of_entered (hpc : s.pc.getLsbD 0 = false) (ha : s.asleep = false) (hroom : canPush s = true)
    (hl : irqLevel h l s = some level) :
    exec (.retfie true) (entered level s) = .next { s with
      ws := s.w, statuss := statusByte s.flags, bsrs := s.bsr.zeroExtend 8, stack := (afterPush s.pc s).stack
      stkful := s.stkful || fills s } := by
  obtain ⟨hgieh, hgiel⟩ := enables_restored hl
  rw [exec_retfie, popThen_of_pushed (b' := entered level s) _ hpc hroom (afterPush_pushed s.pc hroom) rfl rfl,
    if_pos rfl, reenable_eq, restore_of_saved (s := s) rfl rfl rfl]
  unfold entered afterPush
  rw [State.setEntry_eq]
  simp only [State.setSp, State.setStack, State.setStkful, State.setPc, hgieh, hgiel, ha]

/-- Settles O55: the return pops the pc that the entry pushed, restores what it saved and sets the enable bit it cleared
(`exec_retfie_of_entered`). -/
theorem entryThenRetfieRestores : Obligations.EntryThenRetfieRestores := by
  intro h l level s hpc ha hroom hl
  refine ⟨_, _, enterInterrupt_of_canPush level hroom, exec_retfie_of_entered hpc ha hroom hl, fun j hj => ?_, rfl, rfl⟩
  exact (afterPush_entry s.pc hroom j).trans (if_neg hj)

end Sys2Proof.Machine
end

section
/-! SUPPORT. File-register operands that cannot be used (60_exceptions.md R351, R353; 20_memory.md R106, R107;
10_state.md R48, D21): the reasons, the shapes of the instructions, and the statement about them. -/

namespace Sys2Proof.Machine

variable {s : State} {t : DataAddr} {r : Refusal} {i : Instr} {f : Byte} {a : RamSel}

/-! Why an operand cannot be used -/

/-- The operand at the data address `va` can be neither read nor written, for the reason given. -/
inductive OperandRefused (va : DataAddr) (s : State) : Refusal → Prop
  /-- `Resolve` refuses its target (20_memory.md R107). -/
  | target (h : resolvable va s = false) : OperandRefused va s (.indirectTargetUndefined va (targetOf va s))
  /-- Its target is turned away (20_memory.md R106, D21). -/
  | access (h : resolvable va s = true) (hread : readable s.cfg (targetOf va s) = false) :
      OperandRefused va s (accessRefusal s.cfg (targetOf va s))

section
variable {va : DataAddr}

theorem OperandRefused.of_resolve (h : resolve va s = .refused r) : OperandRefused va s r := by
  rw [resolve_eq] at h
  split at h
  next => nomatch h
  next hr =>
    obtain rfl := Host.Outcome.refused.inj h
    exact .target (Bool.eq_false_iff.2 hr)

theorem OperandRefused.of_place (h : resolvable va s = true) (hread : readable s.cfg (targetOf va s) = false)
    (hr : accessRefusal s.cfg (targetOf va s) = r) : OperandRefused va s r := hr ▸ .access h hread

theorem OperandRefused.of_unmapped (h : resolvable va s = true) (hu : unmapped s.cfg (targetOf va s) = true)
    (hp : s.cfg.periph = .refuse) : OperandRefused va s (.dataAddressNotModelled (targetOf va s)) := by
  refine .of_place h ?_ ?_
  · simp only [readable, placeOf_outside.2 hu, hp]
    rfl
  · rw [accessRefusal, placeOf_outside.2 hu]

theorem OperandRefused.of_pcl (h : resolvable va s = true) (hmap : SpecMap s.cfg) (hp : s.cfg.pclAccess = .refuse)
    (ht : targetOf va s = 0xFF9) : OperandRefused va s (.pclAccessRefused 0xFF9) := by
  have hplace : placeOf s.cfg 0xFF9 = .core .pcl := hmap.placeOf_core rfl
  refine .of_place h ?_ ?_
  · simp only [ht, readable, hplace, hp]
    rfl
  · rw [ht, accessRefusal, hplace]

/-! Reads and writes of such an operand -/

theorem memWrite_of_not_readable (v : Byte) (masked : Bool) (h : readable s.cfg t = false) :
    memWrite t v masked s = .refused (accessRefusal s.cfg t) := by
  unfold readable at h
  unfold memWrite accessRefusal
  cases hp : placeOf s.cfg t with
  | gpr | virt => simp [hp] at h
  | outside =>
    have hperiph : s.cfg.periph = .refuse := by simpa [hp] using h
    simp only [hperiph]
  | core q =>
    have hpcl : q = .pcl ∧ s.cfg.pclAccess = .refuse := by simpa [hp] using h
    simp only [if_pos hpcl]

theorem OperandRefused.operandAt (h : OperandRefused va s r) (wb : Bool) : operandAt va wb s = .refused r := by
  unfold Machine.operandAt
  cases h with
  | target hr => rw [resolve_eq, hr]; rfl
  | access hr hread =>
    rw [resolve_eq, if_pos hr, andThen_of_next, memRead_eq, afterResolve_cfg, hread]
    rfl

/-- The counter of free values plays no part in it. -/
theorem OperandRefused.setFreeCtr (h : OperandRefused va s r) (n : Nat) : OperandRefused va (s.setFreeCtr n) r := by
  cases h with
  | target hr => exact .target hr
  | access hr hread => exact .access hr hread

end

theorem OperandRefused.readF (h : OperandRefused (ea f a s) s r) (wb : Bool) : readF f a wb s = .refused r :=
  h.operandAt wb

theorem OperandRefused.writeOnly (h : OperandRefused (ea f a s) s r) (v : Byte) (masked : Bool) (fl : Flags) :
    writeOnly f a v masked fl s = .refused r := by
  unfold Machine.writeOnly
  cases h with
  | target hr => rw [resolve_eq, hr]; rfl
  | access hr hread =>
    have hcfg := afterResolve_cfg (ea f a s) s
    rw [resolve_eq, if_pos hr, andThen_of_next]
    rw [← hcfg] at hread ⊢
    exact memWrite_of_not_readable (s := ((afterResolve (ea f a s) s).setFlags fl).advance) v masked hread

/-! The shapes of the file-register instructions -/

/-- How an instruction with the operand `f, a` uses it. -/
inductive FileShape (i : Instr) (f : Byte) (a : RamSel) (s : State) : Prop
  /-- It reads the operand and puts a result where `d` says; RLCF may have used a free value before. -/
  | result (d : Dest) (masked : Bool) (fn : ByteFn) (n : Nat) (hx : exec i s = byteD f d a masked fn (s.setFreeCtr n))
      (hd : destAddr i s = Dest.address d (fTarget f a s))
  /-- It counts the operand and may skip. -/
  | counts (d : Dest) (fn : Byte → Byte) (cond : Byte → Bool) (hx : exec i s = countSkip f d a fn cond s)
      (hd : destAddr i s = Dest.address d (fTarget f a s)) (hp : assignsPc i = true)
  /-- It reads the operand only. -/
  | reads (k : Operand → Res State) (hx : exec i s = andThen (readF f a false s) k) (hd : destAddr i s = none)
  /-- It writes the operand only. -/
  | writes (v : Byte) (masked : Bool) (fl : Flags) (hx : exec i s = writeOnly f a v masked fl s)

theorem FileShape.of_byteD {d : Dest} {masked : Bool} {fn : ByteFn} (hx : exec i s = byteD f d a masked fn s)
    (hd : destAddr i s = Dest.address d (fTarget f a s)) : FileShape i f a s := .result d masked fn s.freeCtr hx hd

theorem FileShape.of_bitWrite {fn : Byte → Byte} (hx : exec i s = bitWrite f a fn s)
    (hd : destAddr i s = some (fTarget f a s)) : FileShape i f a s := .of_byteD hx hd

theorem fileShape_rlcf (f : Byte) (d : Dest) (a : RamSel) (s : State) : FileShape (.rlcf f d a) f a s := by
  cases hv : s.cfg.flagsVariant with
  | corrected => exact .of_byteD (exec_rlcf_corrected f d a hv) rfl
  | sourceLiteral => exact .result d true _ _ (exec_rlcf_sourceLiteral f d a hv) rfl

/-- Every file-register instruction has one of the shapes. -/
theorem fileShape_of_fileOperand (h : fileOperand i = some (f, a)) (s : State) : FileShape i f a s := by
  cases i with
  | addwf f' d a' | addwfc f' d a' | andwf f' d a' | comf f' d a' | decf f' d a' | incf f' d a' | iorwf f' d a'
  | movf f' d a' | rlncf f' d a' | rrcf f' d a' | rrncf f' d a' | subfwb f' d a' | subwf f' d a' | subwfb f' d a'
  | swapf f' d a' | xorwf f' d a' =>
    obtain ⟨rfl, rfl⟩ := Prod.mk.inj (Option.some.inj h)
    exact .of_byteD (d := d) (by unfold exec; rfl) rfl
  | negf f' a' =>
    obtain ⟨rfl, rfl⟩ := Prod.mk.inj (Option.some.inj h)
    exact .of_byteD (exec_negf f' a' s) rfl
  | bcf f' b a' | bsf f' b a' | btg f' b a' =>
    obtain ⟨rfl, rfl⟩ := Prod.mk.inj (Option.some.inj h)
    exact .of_bitWrite (by unfold exec; rfl) rfl
  | rlcf f' d a' =>
    obtain ⟨rfl, rfl⟩ := Prod.mk.inj (Option.some.inj h)
    exact fileShape_rlcf f' d a' s
  | decfsz f' d a' | dcfsnz f' d a' | incfsz f' d a' | infsnz f' d a' =>
    obtain ⟨rfl, rfl⟩ := Prod.mk.inj (Option.some.inj h)
    exact .counts d _ _ (by unfold exec; rfl) rfl rfl
  | cpfseq f' a' | cpfsgt f' a' | cpfslt f' a' | tstfsz f' a' | btfsc f' b a' | btfss f' b a' | mulwf f' a' =>
    obtain ⟨rfl, rfl⟩ := Prod.mk.inj (Option.some.inj h)
    exact .reads _ rfl rfl
  | clrf f' a' | movwf f' a' | setf f' a' =>
    obtain ⟨rfl, rfl⟩ := Prod.mk.inj (Option.some.inj h)
    exact .writes _ _ _ rfl
  | _ => nomatch h

/-- The instruction stops for the reason its operand is refused for, before it looks at the next word. -/
theorem FileShape.refused (h : FileShape i f a s) (hr : OperandRefused (ea f a s) s r) : exec i s = .refused r := by
  cases h with
  | result d masked fn n hx _ =>
    have hr' : OperandRefused (ea f a (s.setFreeCtr n)) (s.setFreeCtr n) r := hr.setFreeCtr n
    rw [hx, byteD, hr'.readF, andThen_of_refused]
  | counts d fn cond hx _ _ => rw [hx, countSkip, hr.readF, andThen_of_refused]
  | reads k hx _ => rw [hx, hr.readF, andThen_of_refused]
  | writes v masked fl hx => rw [hx, hr.writeOnly]

/-! A top-of-stack register as the destination (10_state.md R48) -/

section
variable {q : Sfr} (hp : placeOf s.cfg (fTarget f a s) = .core q) (hq : isTos q = true)
include hp hq

theorem canRead_of_tos (hr : resolvable (ea f a s) s = true) : canRead f a s = true := by
  have hpcl : q ≠ .pcl := fun h => nomatch (h ▸ hq : isTos .pcl = true)
  simp [canRead, hr, readable, hp, hpcl]

variable (h0 : s.sp = 0)
include h0

/-- What the instruction has changed before the write plays no part, if the stack pointer stays. -/
theorem memWrite_operand_tos_empty {b : State} (v : Byte) (masked : Bool) (hcfg : b.cfg = s.cfg) (hsp : b.sp = s.sp) :
    memWrite (fTarget f a s) v masked b = .refused .tosAccessAtEmptyStack :=
  memWrite_tos_empty v masked (hcfg.symm ▸ hp) hq (hsp.trans h0)

variable (hr : resolvable (ea f a s) s = true)
include hr

theorem byteD_tos_empty {masked : Bool} {fn : ByteFn} :
    byteD f .f a masked fn s = .refused .tosAccessAtEmptyStack := by
  rw [byteD, readF_of_canRead _ (canRead_of_tos hp hq hr), andThen_of_next]
  exact memWrite_operand_tos_empty hp hq h0 _ _ (fState_cfg f a true s) (fState_sp f a true s)

theorem writeOnly_tos_empty {v : Byte} {masked : Bool} {fl : Flags} :
    writeOnly f a v masked fl s = .refused .tosAccessAtEmptyStack := by
  rw [writeOnly, resolve_eq, if_pos hr, andThen_of_next]
  exact memWrite_operand_tos_empty hp hq h0 _ _ (afterResolve_cfg _ s) (afterResolve_frame _ s).sp

theorem countSkip_tos_empty {fn : Byte → Byte} {cond : Byte → Bool} (hs : skippable s = true) :
    countSkip f .f a fn cond s = .refused .tosAccessAtEmptyStack := by
  have hstore : storeResult f .f a (fn (fValue f a s)) s = .refused .tosAccessAtEmptyStack :=
    memWrite_operand_tos_empty hp hq h0 _ _ (fState_cfg f a true s) (fState_sp f a true s)
  rw [countSkip_eq (canRead_of_tos hp hq hr), hstore, skipPc_eq_next.2 ⟨hs, rfl⟩]
  split <;> rfl

/-- An instruction that would write a top-of-stack register while the stack is empty stops. -/
theorem FileShape.tos_empty (h : FileShape i f a s) (hd : destAddr i s ≠ none)
    (hs : assignsPc i = true → skippable s = true) : exec i s = .refused .tosAccessAtEmptyStack := by
  cases h with
  | result d masked fn n hx hd' =>
    cases d with
    | w => exact absurd hd' hd
    | f => exact hx.trans (byteD_tos_empty (s := s.setFreeCtr n) hp hq h0 hr)
  | counts d fn cond hx hd' hpc =>
    cases d with
    | w => exact absurd hd' hd
    | f => exact hx.trans (countSkip_tos_empty hp hq h0 hr (hs hpc))
  | reads k hx hd' => exact absurd hd' hd
  | writes v masked fl hx => exact hx.trans (writeOnly_tos_empty hp hq h0 hr)

end

/-- The top-of-stack registers by their rows of R60. -/
theorem placeOf_tos (hmap : SpecMap s.cfg) (ht : t ∈ [0xFFF#12, 0xFFE#12, 0xFFD#12]) :
    ∃ q, placeOf s.cfg t = .core q ∧ isTos q = true := by
  rcases mem_triple.1 ht with rfl | rfl | rfl
  · exact ⟨.tosu, hmap.placeOf_core rfl, rfl⟩
  · exact ⟨.tosh, hmap.placeOf_core rfl, rfl⟩
  · exact ⟨.tosl, hmap.placeOf_core rfl, rfl⟩

/-! MOVFF: the source first (40_byte_oriented.md R217) -/

section
variable {fs fd : DataAddr}

theorem exec_movff (fs fd : DataAddr) (s : State) : exec (.movff fs fd) s = execMovff fs fd s := rfl

theorem exec_movff_source_refused (h : OperandRefused fs s r) : exec (.movff fs fd) s = .refused r := by
  rw [exec_movff, execMovff, h.operandAt, andThen_of_refused]

theorem movffForbidden_of_unmapped {cfg : Config} (hu : unmapped cfg t = true) : movffForbidden cfg t = false := by
  have hnone : regAt cfg t = none := by simpa using (Bool.and_eq_true_iff.1 hu).2
  rw [movffForbidden, sfrAt, hnone]

variable (hr : resolvable fs s = true) (hread : readable s.cfg (targetOf fs s) = true)
include hr hread

theorem exec_movff_dest_unresolved (h : resolve fd (sourceRead fs s) = .refused r) :
    exec (.movff fs fd) s = .refused r := by
  have hsource : operandAt fs false s = .next ⟨targetOf fs s, sourceValue fs s, sourceRead fs s⟩ :=
    operandAt_eq_next.2 ⟨hr, hread, rfl⟩
  rw [exec_movff, execMovff, hsource, andThen_of_next, h, andThen_of_refused]

theorem exec_movff_dest_unmapped (hd : resolvable fd (sourceRead fs s) = true)
    (hu : unmapped s.cfg (targetOf fd (sourceRead fs s)) = true) (hp : s.cfg.periph = .refuse) :
    exec (.movff fs fd) s = .refused (.dataAddressNotModelled (targetOf fd (sourceRead fs s))) := by
  have hcfg : (afterResolve fd (sourceRead fs s)).cfg = s.cfg :=
    (afterResolve_cfg fd _).trans (sourceRead_frame fs s).steady.cfg
  rw [exec_movff, execMovff_eq hr hread hd, movffForbidden_of_unmapped hu, if_neg Bool.false_ne_true]
  exact memWrite_unmapped_refused _ _ (hcfg.symm ▸ hu) (hcfg.symm ▸ hp)

end

/-- Settles O60: every file-register instruction has a shape (`fileShape_of_fileOperand`), and each shape stops for what
its operand is refused for (`FileShape.refused`), or at the empty stack (`FileShape.tos_empty`); MOVFF reads its source
before it resolves its destination. -/
theorem unusableOperandsStop : Obligations.UnusableOperandsStop := by
  refine ⟨fun i f a s hop => ?_, fun fs fd s => ?_⟩
  · have hshape := fileShape_of_fileOperand hop s
    refine ⟨fun r hr => hshape.refused (.of_resolve hr), fun hr =>
      ⟨fun hu hp => hshape.refused (.of_unmapped hr hu hp),
        fun hmap hp ht => hshape.refused (.of_pcl hr hmap hp ht), fun hmap h0 ht hd hs => ?_⟩⟩
    obtain ⟨q, hplace, hq⟩ := placeOf_tos hmap ht
    exact FileShape.tos_empty hplace hq h0 hr hshape hd hs
  · refine ⟨fun r hr => exec_movff_source_refused (.of_resolve hr), fun hr =>
      ⟨fun hu hp => exec_movff_source_refused (.of_unmapped hr hu hp),
        fun hmap hp ht => exec_movff_source_refused (.of_pcl hr hmap hp ht), ?_⟩⟩
    rintro _ hread rfl
    exact ⟨fun r h => exec_movff_dest_unresolved hr hread h,
      fun hd hu hp => exec_movff_dest_unmapped hr hread hd hu hp⟩

end Sys2Proof.Machine
end

section
/-! SUPPORT. Watchdog, master-clear and brown-out resets (60_exceptions.md R372; 70_reset_and_hazards.md R390, R391): what
each kind leaves, the boundary that makes it, and the statement about them. -/

namespace Sys2Proof.Machine

variable {s s' : State} {j : Input}

/-! What each kind of reset leaves -/

theorem watchdogReset_column (s : State) : ResetColumn s (watchdogReset s) := { resetColumn_column s with }

theorem watchdogReset_power (s : State) : (watchdogReset s).toBit = false ∧ (watchdogReset s).bor = s.bor := ⟨rfl, rfl⟩

theorem externalReset_column (kind : ExtReset) (s : State) : ResetColumn s (externalReset kind s) := by
  cases kind with
  | masterClear => exact resetColumn_column s
  | brownOut => exact { resetColumn_column s with }

theorem masterClear_power (s : State) :
    (externalReset .masterClear s).toBit = s.toBit ∧ (externalReset .masterClear s).bor = s.bor := ⟨rfl, rfl⟩

theorem brownOut_power (s : State) :
    (externalReset .brownOut s).toBit = s.toBit ∧ (externalReset .brownOut s).bor = false := ⟨rfl, rfl⟩

/-! The boundary that makes it -/

theorem boundary_of_externalReset {kind : ExtReset} (hr : j.reset = some kind) :
    boundary j s = .next (externalReset kind s) := by
  unfold boundary
  rw [hr]

theorem boundary_of_watchdog (hr : j.reset = none) (hw : j.wdtTimeout = true) (ha : s.asleep = false) :
    boundary j s = .next (watchdogReset s) := by
  simp only [boundary, hr, hw, ha, Bool.false_eq_true, if_false, if_true]

/-! The input that is used up first -/

theorem takeInput_power (s : State) : (takeInput s).toBit = s.toBit ∧ (takeInput s).bor = s.bor := by
  unfold takeInput
  split <;> exact ⟨rfl, rfl⟩

/-- The RESET column relates the new state to what a boundary's input leaves alone. -/
theorem ResetColumn.of_takeInput (h : ResetColumn (takeInput s) s') : ResetColumn s s' := by
  unfold takeInput at h
  split at h
  · exact h
  · exact { h with }

theorem step_of_externalReset {kind : ExtReset} (hj : currentInput s = j) (hr : j.reset = some kind) :
    step s = .next (externalReset kind (takeInput s)) := by
  rw [step, hj, boundary_of_externalReset hr]

theorem step_of_watchdog (hj : currentInput s = j) (hr : j.reset = none) (hw : j.wdtTimeout = true)
    (ha : s.asleep = false) : step s = .next (watchdogReset (takeInput s)) := by
  rw [step, hj, boundary_of_watchdog hr hw ((takeInput_decides s).1.trans ha)]

/-- Settles O59: the step is the reset of the state with its input taken (`step_of_watchdog`, `step_of_externalReset`);
each kind leaves the RESET column, which taking the input does not disturb (`ResetColumn.of_takeInput`). -/
theorem outsideResets : Obligations.OutsideResets := by
  intro s i rest hin
  have hcur := currentInput_of_cons hin
  obtain ⟨htaken_to, htaken_bor⟩ := takeInput_power s
  refine ⟨fun hr hw ha => ?_, fun hr => ?_, fun hr => ?_⟩
  · obtain ⟨hto, hbor⟩ := watchdogReset_power (takeInput s)
    exact ⟨_, step_of_watchdog hcur hr hw ha, (watchdogReset_column _).of_takeInput, hto, hbor.trans htaken_bor⟩
  · obtain ⟨hto, hbor⟩ := masterClear_power (takeInput s)
    exact ⟨_, step_of_externalReset hcur hr, (externalReset_column _ _).of_takeInput, hto.trans htaken_to,
      hbor.trans htaken_bor⟩
  · obtain ⟨hto, hbor⟩ := brownOut_power (takeInput s)
    exact ⟨_, step_of_externalReset hcur hr, (externalReset_column _ _).of_takeInput, hto.trans htaken_to, hbor⟩

end Sys2Proof.Machine
end
